-- ==== Sys2Proof/Word.lean ====
section
/-! DEFINITION. The word types of the core, each with the width the spec gives it
(00_scope.md R9, 30_encoding.md R81). Every value is an unsigned bit vector of stated width (R12). -/

namespace Sys2Proof

/-- Eight bits: W, a file register, an operand of an execution unit, a literal (R9). -/
abbrev Byte := BitVec 8

/-- A 12-bit program address: the PC, a return address (R9, R24). -/
abbrev PAddr := BitVec 12

/-- A 14-bit instruction word (R80). -/
abbrev InsnWord := BitVec 14

/-- A 7-bit file-register address on the peripheral bus (field `f`, R81). -/
abbrev FAddr := BitVec 7

/-- A 3-bit bit index (field `b`, R81). -/
abbrev BitIdx := BitVec 3

/-- An 11-bit jump or call target within a page (field `a`, R81). -/
abbrev Target := BitVec 11

/-- How many words program memory has (R50). -/
abbrev progSize : Nat := 4096

/-- How many bytes the file-register space has (R50). -/
abbrev fileSize : Nat := 128

end Sys2Proof
end

