-- ==== Sys2Proof/Syntax.lean ====
section
/-! DEFINITION. The instructions: one constructor per row of spec/opcode_table.json, in the table's
order (30_encoding.md R83), with the operand fields of R81 as its arguments. A field has the width of
its bit field, so every term is an instruction the core has. -/

namespace Sys2Proof

/-- The destination bit `d` of the d-family: 0 selects W, 1 the file register (R81, R90). -/
inductive Dest where
  | w
  | f
deriving DecidableEq, Repr

/-- The 34 opcodes of R83 with their operands. -/
inductive Instr where
  | nop
  /-- RETURN (the word itself is a keyword of Lean). -/
  | ret
  | retfie
  | sleep
  | movwf (f : FAddr)
  | clrw
  | clrf (f : FAddr)
  | subwf (f : FAddr) (d : Dest)
  | decf (f : FAddr) (d : Dest)
  | iorwf (f : FAddr) (d : Dest)
  | andwf (f : FAddr) (d : Dest)
  | xorwf (f : FAddr) (d : Dest)
  | addwf (f : FAddr) (d : Dest)
  | movf (f : FAddr) (d : Dest)
  | comf (f : FAddr) (d : Dest)
  | incf (f : FAddr) (d : Dest)
  | decfsz (f : FAddr) (d : Dest)
  | rrf (f : FAddr) (d : Dest)
  | rlf (f : FAddr) (d : Dest)
  | swapf (f : FAddr) (d : Dest)
  | incfsz (f : FAddr) (d : Dest)
  | bcf (f : FAddr) (b : BitIdx)
  | bsf (f : FAddr) (b : BitIdx)
  | btfsc (f : FAddr) (b : BitIdx)
  | btfss (f : FAddr) (b : BitIdx)
  | call (a : Target)
  | goto (a : Target)
  | movlw (k : Byte)
  | retlw (k : Byte)
  | iorlw (k : Byte)
  | andlw (k : Byte)
  | xorlw (k : Byte)
  | sublw (k : Byte)
  | addlw (k : Byte)
deriving DecidableEq, Repr

end Sys2Proof
end

