-- ==== Sys2Proof/WellFormed.lean ====
section
/-! DEFINITION. Well-formedness of what enters the model as raw numbers. An `Instr` needs no check: each
operand is a bit vector of its field's width (R81), and every term has an encoding. A program image, the
contents the flash controller supplies (20_memory.md R51), is a list of numbers and is checked here. -/

namespace Sys2Proof

/-- A program image: (word address, instruction word) pairs as plain numbers. -/
abbrev Image := List (Nat × Nat)

/-- Each address is one of the 4096 word addresses (R50). -/
def Image.addressesInRange (img : Image) : Bool :=
  img.all fun c => decide (c.1 < progSize)

/-- Each word has at most 14 bits (R80). -/
def Image.wordsInRange (img : Image) : Bool :=
  img.all fun c => decide (c.2 < 2 ^ 14)

/-- Addresses strictly rise, so no address is given two words. -/
def Image.rising : Image → Bool
  | [] => true
  | c :: img => (img.head?.all fun c' => decide (c.1 < c'.1)) && Image.rising img

/-- An image a loader may place in program memory. -/
def Image.wellFormed (img : Image) : Bool :=
  img.addressesInRange && img.wordsInRange && img.rising

end Sys2Proof
end

