-- ==== Sys2Proof/Decode.lean ====
section
/-! DEFINITION. The decoder, a table of (mask, match) rows tested in listed order (30_encoding.md R83,
R84), total on every 14-bit word, and after it the encoder, written from the same patterns. -/

namespace Sys2Proof

/-- Field `f`, `insn[6:0]` (R81). -/
def fieldF (w : InsnWord) : FAddr := w.extractLsb' 0 7

/-- Field `d`, `insn[7]` (R81, R90). -/
def fieldD (w : InsnWord) : Dest := if w.getLsbD 7 then .f else .w

/-- Field `b`, `insn[9:7]` (R81). -/
def fieldB (w : InsnWord) : BitIdx := w.extractLsb' 7 3

/-- Field `k`, `insn[7:0]` (R81). -/
def fieldK (w : InsnWord) : Byte := w.extractLsb' 0 8

/-- Field `a`, `insn[10:0]` (R81). -/
def fieldA (w : InsnWord) : Target := w.extractLsb' 0 11

/-- One row of the decode table (R83). -/
structure DecodeRow where
  mask : InsnWord
  value : InsnWord
  build : InsnWord → Instr

/-- A word matches a row when its masked bits equal the row's match value (R83). -/
def DecodeRow.accepts (r : DecodeRow) (w : InsnWord) : Bool := w &&& r.mask == r.value

/-- Rows 1 to 7 of R83: the fixed words and the file instructions without `d`. -/
def fixedRows : List DecodeRow :=
  [ ⟨0x3F9F#14, 0x0000#14, fun _ => .nop⟩,
    ⟨0x3FFF#14, 0x0008#14, fun _ => .ret⟩,
    ⟨0x3FFF#14, 0x0009#14, fun _ => .retfie⟩,
    ⟨0x3FFF#14, 0x0063#14, fun _ => .sleep⟩,
    ⟨0x3F80#14, 0x0080#14, fun w => .movwf (fieldF w)⟩,
    ⟨0x3F80#14, 0x0100#14, fun _ => .clrw⟩,
    ⟨0x3F80#14, 0x0180#14, fun w => .clrf (fieldF w)⟩ ]

/-- Rows 8 to 21 of R83: the byte-oriented file instructions with `d`. -/
def byteRows : List DecodeRow :=
  [ ⟨0x3F00#14, 0x0200#14, fun w => .subwf (fieldF w) (fieldD w)⟩,
    ⟨0x3F00#14, 0x0300#14, fun w => .decf (fieldF w) (fieldD w)⟩,
    ⟨0x3F00#14, 0x0400#14, fun w => .iorwf (fieldF w) (fieldD w)⟩,
    ⟨0x3F00#14, 0x0500#14, fun w => .andwf (fieldF w) (fieldD w)⟩,
    ⟨0x3F00#14, 0x0600#14, fun w => .xorwf (fieldF w) (fieldD w)⟩,
    ⟨0x3F00#14, 0x0700#14, fun w => .addwf (fieldF w) (fieldD w)⟩,
    ⟨0x3F00#14, 0x0800#14, fun w => .movf (fieldF w) (fieldD w)⟩,
    ⟨0x3F00#14, 0x0900#14, fun w => .comf (fieldF w) (fieldD w)⟩,
    ⟨0x3F00#14, 0x0A00#14, fun w => .incf (fieldF w) (fieldD w)⟩,
    ⟨0x3F00#14, 0x0B00#14, fun w => .decfsz (fieldF w) (fieldD w)⟩,
    ⟨0x3F00#14, 0x0C00#14, fun w => .rrf (fieldF w) (fieldD w)⟩,
    ⟨0x3F00#14, 0x0D00#14, fun w => .rlf (fieldF w) (fieldD w)⟩,
    ⟨0x3F00#14, 0x0E00#14, fun w => .swapf (fieldF w) (fieldD w)⟩,
    ⟨0x3F00#14, 0x0F00#14, fun w => .incfsz (fieldF w) (fieldD w)⟩ ]

/-- Rows 22 to 34 of R83: bit-oriented, control transfer and literal instructions. -/
def bitControlLiteralRows : List DecodeRow :=
  [ ⟨0x3C00#14, 0x1000#14, fun w => .bcf (fieldF w) (fieldB w)⟩,
    ⟨0x3C00#14, 0x1400#14, fun w => .bsf (fieldF w) (fieldB w)⟩,
    ⟨0x3C00#14, 0x1800#14, fun w => .btfsc (fieldF w) (fieldB w)⟩,
    ⟨0x3C00#14, 0x1C00#14, fun w => .btfss (fieldF w) (fieldB w)⟩,
    ⟨0x3800#14, 0x2000#14, fun w => .call (fieldA w)⟩,
    ⟨0x3800#14, 0x2800#14, fun w => .goto (fieldA w)⟩,
    ⟨0x3C00#14, 0x3000#14, fun w => .movlw (fieldK w)⟩,
    ⟨0x3C00#14, 0x3400#14, fun w => .retlw (fieldK w)⟩,
    ⟨0x3F00#14, 0x3800#14, fun w => .iorlw (fieldK w)⟩,
    ⟨0x3F00#14, 0x3900#14, fun w => .andlw (fieldK w)⟩,
    ⟨0x3F00#14, 0x3A00#14, fun w => .xorlw (fieldK w)⟩,
    ⟨0x3E00#14, 0x3C00#14, fun w => .sublw (fieldK w)⟩,
    ⟨0x3E00#14, 0x3E00#14, fun w => .addlw (fieldK w)⟩ ]

/-- The decode table, in the order of R83. -/
def decodeTable : List DecodeRow := fixedRows ++ byteRows ++ bitControlLiteralRows

/-- Decoding by a table: the first row that accepts the word builds the instruction, and a word that no row
accepts is NOP (R84, R86, R87). -/
def decodeBy (rows : List DecodeRow) (w : InsnWord) : Instr :=
  match rows.find? (·.accepts w) with
  | some r => r.build w
  | none => .nop

/-- The decoder (R84). -/
def decode (w : InsnWord) : Instr := decodeBy decodeTable w

/-- No row accepts the word: the reserved space (R86). -/
def reserved (w : InsnWord) : Bool := decodeTable.all fun r => !r.accepts w

/-- Why a number is no instruction word. -/
inductive DecodeError where
  /-- More than 14 bits: the instruction bus carries 14 (R80). -/
  | widerThanWord
deriving DecidableEq, Repr

/-- Decoding a plain number: rejected by name when it is no 14-bit word, else total. -/
def decodeNat (w : Nat) : Except DecodeError Instr :=
  if w < 2 ^ 14 then .ok (decode (BitVec.ofNat 14 w)) else .error .widerThanWord

/-- The instruction the decoder reads from an opcode-table word of `nbits` bits. The word is one bus
word, so no byte order enters (20_memory.md R59). -/
def decodeTableWord (nbits w : Nat) : Option Instr :=
  match decodeNat (w % 2 ^ nbits) with
  | .ok i => some i
  | .error _ => none

/-- The destination bit as it stands in a word (R81). -/
def Dest.bit : Dest → BitVec 1
  | .w => 0#1
  | .f => 1#1

/-- The word of an instruction, from the patterns of R83, don't-care bits 0 (R91). -/
def encode : Instr → InsnWord
  | .nop => 0x0000#14
  | .ret => 0x0008#14
  | .retfie => 0x0009#14
  | .sleep => 0x0063#14
  | .movwf f => 0b0000001#7 ++ f
  | .clrw => 0b0000010#7 ++ 0#7
  | .clrf f => 0b0000011#7 ++ f
  | .subwf f d => 0b000010#6 ++ d.bit ++ f
  | .decf f d => 0b000011#6 ++ d.bit ++ f
  | .iorwf f d => 0b000100#6 ++ d.bit ++ f
  | .andwf f d => 0b000101#6 ++ d.bit ++ f
  | .xorwf f d => 0b000110#6 ++ d.bit ++ f
  | .addwf f d => 0b000111#6 ++ d.bit ++ f
  | .movf f d => 0b001000#6 ++ d.bit ++ f
  | .comf f d => 0b001001#6 ++ d.bit ++ f
  | .incf f d => 0b001010#6 ++ d.bit ++ f
  | .decfsz f d => 0b001011#6 ++ d.bit ++ f
  | .rrf f d => 0b001100#6 ++ d.bit ++ f
  | .rlf f d => 0b001101#6 ++ d.bit ++ f
  | .swapf f d => 0b001110#6 ++ d.bit ++ f
  | .incfsz f d => 0b001111#6 ++ d.bit ++ f
  | .bcf f b => 0b0100#4 ++ b ++ f
  | .bsf f b => 0b0101#4 ++ b ++ f
  | .btfsc f b => 0b0110#4 ++ b ++ f
  | .btfss f b => 0b0111#4 ++ b ++ f
  | .call a => 0b100#3 ++ a
  | .goto a => 0b101#3 ++ a
  | .movlw k => 0b110000#6 ++ k
  | .retlw k => 0b110100#6 ++ k
  | .iorlw k => 0b111000#6 ++ k
  | .andlw k => 0b111001#6 ++ k
  | .xorlw k => 0b111010#6 ++ k
  | .sublw k => 0b111100#6 ++ k
  | .addlw k => 0b111110#6 ++ k

end Sys2Proof
end

