-- ==== Sys2Proof/Config.lean ====
section
/-! DEFINITION. What the spec leaves open: bus events, by which an oracle sees the machine, and the
free values, each a constant with no body, so that no proof can know what it is (R10). -/

namespace Sys2Proof

/-- One observable bus transaction of the core (20_memory.md R53, R56, R57; 40_datapath.md R145). -/
inductive BusEvent where
  /-- An instruction fetch at a program address, with the word the responder presented (R53). -/
  | fetch (a : PAddr) (word : InsnWord)
  /-- A peripheral read, with the byte the responder presented (R56). -/
  | read (f : FAddr) (v : Byte)
  /-- A peripheral write (R57). -/
  | write (f : FAddr) (v : Byte)
deriving DecidableEq, Repr

/-- Whether BTFSC and BTFSS skip: the spec's OPEN parameter `bitTestSkip` (R10, 92_eei_decisions.md D12).
It is the reset value of `State.bitTestSkip`; log entry 4. -/
opaque Config.bitTestSkip : Bool

/-- The `periph` oracle of R10 and R56: what a peripheral that is not plain memory answers to a read of
`f`, after all the bus events so far (newest first). It may be any byte (R56, D17); log entry 5. -/
opaque Config.portRead : List BusEvent → FAddr → Byte

/-- What the skip latch holds for an opcode that neither writes Z nor skips on zero, by its word and its two
operands. The spec gives the arithmetic unit no operation there (R136, R137, 91_not_in_source.md N10), so the
value is free. DESIGN CHOICE of the form; log entry 14. -/
opaque Config.openSkip : InsnWord → Byte → Byte → Bool

end Sys2Proof
end

