-- ==== Sys2Proof/Machine/State.lean ====
section
/-! DEFINITION. The state of the machine: the core's record of 10_state.md R20, the cycle-level latches of
R35, and what the environment holds or presents (program words, file registers, PCLATH; R10, R50). All
plain data. -/

namespace Sys2Proof.Machine

/-- The cycle-level registers: the phase counter (R34) and the latches and strobes of R35. The
instruction-level step carries none of them (R20); `clock` (Machine/Cycle.lean) reads and writes them. -/
structure Latches where
  /-- The free-running phase counter (R34). -/
  phase : BitVec 2
  /-- The latched instruction word `IR`. -/
  ir : InsnWord
  /-- The left operand latch. -/
  lhs : Byte
  /-- The right operand latch. -/
  rhs : Byte
  /-- The arithmetic unit's pre-negated right operand (R112, R320). -/
  negRhs : Byte
  /-- The bit index of BCF and BSF (R135). -/
  targetBit : BitIdx
  /-- The carry-invert flag (R116, R316). -/
  invert : Bool
  /-- The skip latch: the zero signal of the arithmetic unit (R27, R137). -/
  skip : Bool
  /-- The instruction-bus read strobe (R52). -/
  insnRead : Bool
  /-- The peripheral-bus read strobe (R55). -/
  periphRead : Bool
  /-- The peripheral-bus write strobe (R55). -/
  periphWrite : Bool
  /-- The peripheral-bus address (R55). -/
  periphAddr : FAddr
  /-- The peripheral-bus write data (R55). -/
  writeData : Byte
  /-- The stack push strobe (R317, R318). -/
  push : Bool
  /-- The stack pop strobe (R317, R318). -/
  pop : Bool
deriving DecidableEq, Repr

/-- Every latch zero, every strobe deasserted (R36). `IR = 0x0000` decodes as NOP. -/
def Latches.reset : Latches where
  phase := 0#2
  ir := 0#14
  lhs := 0#8
  rhs := 0#8
  negRhs := 0#8
  targetBit := 0#3
  invert := false
  skip := false
  insnRead := false
  periphRead := false
  periphWrite := false
  periphAddr := 0#7
  writeData := 0#8
  push := false
  pop := false

/-- The whole machine. -/
structure State where
  /-- The working register W (R21). -/
  w : Byte
  /-- The program counter (R24). -/
  pc : PAddr
  /-- The carry flag (R26). -/
  c : Bool
  /-- The zero flag (R27). -/
  z : Bool
  /-- The eight slots of the call stack (R29). -/
  stack : Vector PAddr 8
  /-- The stack count, modulo 8 (R29, R30). -/
  count : BitVec 3
  /-- The pause flag: the next fetched word runs as NOP (R33). -/
  pause : Bool
  /-- The cycle-level registers (R34, R35). -/
  latch : Latches
  /-- Program memory: listed word addresses, rising, no listed word zero; an unlisted address reads as
  `Memory.unlisted` (R51; log entry 1). -/
  prog : List (Nat × BitVec 14)
  /-- The bytes of the file-register locations that are plain memory, in the same form (R54, R66; log
  entries 2 and 3). -/
  file : List Host.Cell
  /-- The file-register locations that are not plain memory: the `periph` oracle answers their reads
  (R54, R56; log entry 3). No instruction writes this list. -/
  ports : List FAddr
  /-- The value the environment presents at the PCLatchHigh input (R31). -/
  pclath : Byte
  /-- The file-register address at which the platform has its page-select register, if it has one: a
  write there is presented at PCLATH (R68; log entry 6). No instruction writes this field. -/
  pageSelect : Option FAddr
  /-- Whether BTFSC and BTFSS skip, the parameter `bitTestSkip` (R10, R232; log entry 4). No instruction
  writes this field. -/
  bitTestSkip : Bool
  /-- The bus events so far, newest first: what the oracle has seen (R10, R56, R57, R145). -/
  bus : List BusEvent
deriving DecidableEq, Repr

/-- Why the machine stops with a fault: there is no reason, since nothing faults, traps or halts
(40_datapath.md R143, 60_exceptions.md R290). Safe: the type has no value. -/
inductive Fault where
deriving DecidableEq, Repr

/-- Why the model has no meaning for an instruction. -/
inductive Refusal where
  /-- Raised only by an arm of `exec` whose instruction has no meaning yet; no arm is such. Safe: the run
  stops. -/
  | notModelled (mnemonic : String)
deriving DecidableEq, Repr

/-- The machine right after reset, over given stack slots: the parameter `stackInit` of R10 and D4. The
core is zeroed (R36); the environment is the reference platform of R66 with no program. -/
def State.resetWith (stackInit : Vector PAddr 8) : State where
  w := 0#8
  pc := 0#12
  c := false
  z := false
  stack := stackInit
  count := 0#3
  pause := false
  latch := Latches.reset
  prog := []
  file := []
  ports := []
  pclath := 0#8
  pageSelect := none
  bitTestSkip := Config.bitTestSkip
  bus := []

/-- The machine right after reset: the source zeroes every stack slot (R36). -/
def State.reset : State := State.resetWith (Vector.replicate 8 0#12)

end Sys2Proof.Machine
end

