-- ==== Sys2Proof/Machine/Ops.lean ====
section
/-! DEFINITION. The named operations over memory, buses, call stack and PC. Taking an exception and
returning from one have no operation here: the core raises no exception, takes no interrupt and has no
trap entry or trap return (60_exceptions.md R290, R291, R293, R294). -/

namespace Sys2Proof.Machine

/-- What an address that a memory does not list reads as (log entries 1 and 2). -/
def Memory.unlisted {n : Nat} : BitVec n := 0#n

/-- Read one unit of a memory. -/
def Memory.read {n : Nat} : List (Nat × BitVec n) → Nat → BitVec n
  | [], _ => Memory.unlisted
  | (k, v) :: m, a => if k = a then v else Memory.read m a

/-- Put a cell in front of a memory whose addresses are all higher, unless it holds the unlisted value. -/
def Memory.cons {n : Nat} (a : Nat) (v : BitVec n) (m : List (Nat × BitVec n)) : List (Nat × BitVec n) :=
  if v = Memory.unlisted then m else (a, v) :: m

/-- Write one unit of a memory, keeping its canonical form. -/
def Memory.write {n : Nat} : List (Nat × BitVec n) → Nat → BitVec n → List (Nat × BitVec n)
  | [], a, v => Memory.cons a v []
  | (k, x) :: m, a, v =>
    if a < k then Memory.cons a v ((k, x) :: m)
    else if a = k then Memory.cons a v m
    else (k, x) :: Memory.write m a v

/-- The canonical form: addresses below `size`, strictly rising, no cell equal to the unlisted value. -/
def Memory.wf {n : Nat} (size : Nat) : List (Nat × BitVec n) → Bool
  | [] => true
  | (k, v) :: m =>
    decide (k < size) && decide (v ≠ Memory.unlisted) && (m.head?.all fun c => decide (k < c.1)) && Memory.wf size m

/-- Both memories are in canonical form. -/
def State.memoriesWf (s : State) : Bool := Memory.wf progSize s.prog && Memory.wf fileSize s.file

/-! ### The instruction bus -/

/-- The word at the PC: every address is fetchable and no fetch faults (R53). -/
def State.fetchWord (s : State) : InsnWord := Memory.read s.prog s.pc.toNat

/-- The word the window executes: the fetched one, or the all-zero word when `pause` is set (R130, R142). -/
def State.windowWord (s : State) : InsnWord := if s.pause then 0x0000#14 else s.fetchWord

/-- The fetch as a bus event; it is made even for a skipped instruction (R130, R142). -/
def State.recordFetch (s : State) : State := { s with bus := .fetch s.pc s.fetchWord :: s.bus }

/-! ### The peripheral bus -/

/-- The byte the responder presents for a read of `f`: the byte of a plain-memory location, else the
oracle's answer (R56, R66). -/
def State.fileByte (s : State) (f : FAddr) : Byte :=
  if s.ports.contains f then Config.portRead s.bus f else Memory.read s.file f.toNat

/-- `MemRead(f, 1)` as a bus event; its value is `fileByte` (R56). -/
def State.recordRead (s : State) (f : FAddr) : State := { s with bus := .read f (s.fileByte f) :: s.bus }

/-- `MemWrite(f, 1, v)` (R57): the event, the byte of a plain-memory location, and the new PCLATH where
`f` is the page-select register (R68). -/
def State.memWrite (s : State) (f : FAddr) (v : Byte) : State :=
  { s with
    bus := .write f v :: s.bus
    file := if s.ports.contains f then s.file else Memory.write s.file f.toNat v
    pclath := if s.pageSelect = some f then v else s.pclath }

/-! ### The call stack -/

/-- The slot a pop reads, `stack[(count - 1) mod 8]` (R121, R122). -/
def State.top (s : State) : PAddr := s.stack[(s.count - 1#3).toNat]'(s.count - 1#3).isLt

/-- `push(v)`: write `stack[count]`, then count up modulo 8 (R120). -/
def State.push (s : State) (v : PAddr) : State :=
  { s with stack := s.stack.set s.count.toNat v s.count.isLt, count := s.count + 1#3 }

/-- The state after `pop()`: count down modulo 8, slots kept (R121). The value popped is `top`. -/
def State.pop (s : State) : State := { s with count := s.count - 1#3 }

/-! ### The program counter and the pause flag -/

/-- Go to the next word, modulo 4096, and set the pause flag as given (R25, R141, R142). -/
def State.advance (s : State) (skip : Bool) : State := { s with pc := s.pc + 1#12, pause := skip }

/-- Go to an address; a control transfer sets `pause <- 0` (R142). -/
def State.jump (s : State) (a : PAddr) : State := { s with pc := a, pause := false }

/-- `target(a, pclath) = {pclath[3], a}`; PCLATH bit 4 does not fit the 12-bit PC (R141, 90_conflicts.md C4). -/
def State.target (s : State) (a : Target) : PAddr := BitVec.ofBool (s.pclath.getLsbD 3) ++ a

/-! ### What the outside world does -/

/-- The external reset (R310, R311): every core register takes its reset value, the stack slots those of
`stackInit` (D4), and the environment is left as it is. -/
def State.externalReset (s : State) (stackInit : Vector PAddr 8) : State :=
  { s with w := 0#8, pc := 0#12, c := false, z := false, stack := stackInit, count := 0#3, pause := false,
           latch := Latches.reset }

/-- The environment presents a value at the PCLatchHigh input (R31). -/
def State.presentPclath (s : State) (v : Byte) : State := { s with pclath := v }

/-- The contents of program memory that an image gives (R51). -/
def imageWords (img : Image) : List (Nat × BitVec 14) :=
  img.foldl (fun m c => Memory.write m c.1 (BitVec.ofNat 14 c.2)) []

/-- The flash controller supplies a program; an ill-formed image is not loaded (R51; log entry 1). -/
def State.loadImage (s : State) (img : Image) : Option State :=
  if img.wellFormed then some { s with prog := imageWords img } else none

end Sys2Proof.Machine
end

