-- ==== Sys2Proof/Machine/Units.lean ====
section
/-! DEFINITION. The three execution units of 40_datapath.md as pure functions. -/

namespace Sys2Proof.Machine

/-- The arithmetic unit's operations (R110). -/
inductive ArithOp where
  | add
  | sub
  | inc
  | dec
deriving DecidableEq, Repr

/-- The logic unit's operations (R117). -/
inductive LogicOp where
  | none
  | and
  | or
  | xor
deriving DecidableEq, Repr

/-- The bit-manipulation unit's operations (R118). -/
inductive BitOp where
  | none
  | rotr
  | rotl
  | swap
  | bitclr
  | bitset
deriving DecidableEq, Repr

/-- The pre-negated right operand, eight bits wide (R112, D5). -/
def negate (rhs : Byte) : Byte := ~~~rhs + 1#8

/-- The effective left operand: 1 for INC, 0xFF for DEC, else the supplied one (R110). -/
def effLhs (op : ArithOp) (lhs : Byte) : Byte :=
  match op with
  | .inc => 0x01#8
  | .dec => 0xFF#8
  | .add => lhs
  | .sub => lhs

/-- The right operand of the sum: the pre-negated one for SUB (R112), else `rhs` (R111, R113, R114). -/
def effRhs (op : ArithOp) (rhs negRhs : Byte) : Byte :=
  match op with
  | .sub => negRhs
  | .add => rhs
  | .inc => rhs
  | .dec => rhs

/-- The 9-bit sum (R111 to R114). -/
def arithSum (op : ArithOp) (lhs rhs negRhs : Byte) : BitVec 9 :=
  (effLhs op lhs).setWidth 9 + (effRhs op rhs negRhs).setWidth 9

/-- The arithmetic unit: result and raw carry (bit 8 of the sum); a disabled unit gives 0 and 0 (R110,
R115). -/
def arithUnit (enable : Bool) (op : ArithOp) (lhs rhs negRhs : Byte) : Byte × Bool :=
  if enable then
    ((arithSum op lhs rhs negRhs).setWidth 8, (arithSum op lhs rhs negRhs).getLsbD 8)
  else (0#8, false)

/-- The invert flag, set for SUB and DEC (R116). -/
def ArithOp.inverts : ArithOp → Bool
  | .sub => true
  | .dec => true
  | .add => false
  | .inc => false

/-- The logic unit; NONE and disabled both yield 0 (R117). -/
def logicUnit (enable : Bool) (op : LogicOp) (lhs rhs : Byte) : Byte :=
  if enable then
    match op with
    | .none => 0#8
    | .and => lhs &&& rhs
    | .or => lhs ||| rhs
    | .xor => lhs ^^^ rhs
  else 0#8

/-- The bit-manipulation unit: result and carry out; NONE and disabled both yield 0 and 0 (R118). -/
def bitUnit (enable : Bool) (op : BitOp) (value : Byte) (carryIn : Bool) (targetBit : BitIdx) : Byte × Bool :=
  if enable then
    match op with
    | .none => (0#8, false)
    | .rotr => (BitVec.ofBool carryIn ++ value.extractLsb' 1 7, value.getLsbD 0)
    | .rotl => (value.extractLsb' 0 7 ++ BitVec.ofBool carryIn, value.getLsbD 7)
    | .swap => (value.extractLsb' 0 4 ++ value.extractLsb' 4 4, false)
    | .bitclr => (value &&& ~~~(1#8 <<< targetBit.toNat), false)
    | .bitset => (value ||| (1#8 <<< targetBit.toNat), false)
  else (0#8, false)

end Sys2Proof.Machine
end

