-- ==== Sys2Proof/Machine/Flags.lean ====
section
/-! DEFINITION. What an instruction computes: the byte, the flags it writes and whether it skips
(40_datapath.md R136 to R139, R142). -/

namespace Sys2Proof.Machine

/-- One instruction's result. A flag that is `none` is not written (R28). -/
structure Result where
  value : Byte
  z : Option Bool
  c : Option Bool
  skip : Bool
deriving DecidableEq, Repr

/-- Write the flags that the result writes (R138, R139). -/
def State.setFlags (s : State) (r : Result) : State := { s with z := r.z.getD s.z, c := r.c.getD s.c }

/-- The arithmetic unit's result for the instruction's own operands (R112). -/
def arithValue (op : ArithOp) (lhs rhs : Byte) : Byte := (arithUnit true op lhs rhs (negate rhs)).1

/-- The committed carry: the unit's carry XORed with the invert flag (R116). -/
def arithCarry (op : ArithOp) (lhs rhs : Byte) : Bool :=
  (arithUnit true op lhs rhs (negate rhs)).2 ^^ op.inverts

/-- The skip signal, arithmetic result == 0 (R27, R137). -/
def arithZero (op : ArithOp) (lhs rhs : Byte) : Bool := arithValue op lhs rhs == 0#8

/-- Arithmetic that writes Z and C (R136). -/
def arithResult (op : ArithOp) (lhs rhs : Byte) : Result :=
  ⟨arithValue op lhs rhs, some (arithZero op lhs rhs), some (arithCarry op lhs rhs), false⟩

/-- The arithmetic of INCFSZ and DECFSZ: C written, Z not, skip on zero (R138, R139, R142). -/
def arithSkipResult (op : ArithOp) (rhs : Byte) : Result :=
  ⟨arithValue op 0#8 rhs, none, some (arithCarry op 0#8 rhs), arithZero op 0#8 rhs⟩

/-- Logic: Z from the adder of the same operands, not from the logic result; C not written (R137). -/
def logicResult (op : LogicOp) (lhs rhs : Byte) : Result :=
  ⟨logicUnit true op lhs rhs, some (arithZero .add lhs rhs), none, false⟩

/-- The bit unit: C written, Z not (R136, R139). -/
def bitResult (op : BitOp) (value : Byte) (carryIn : Bool) (targetBit : BitIdx) : Result :=
  ⟨(bitUnit true op value carryIn targetBit).1, none, some (bitUnit true op value carryIn targetBit).2, false⟩

/-- A byte and Z, C not written: MOVF, COMF, CLRW, CLRF (R136, D8, D9). -/
def zeroTested (value : Byte) : Result := ⟨value, some (value == 0#8), none, false⟩

/-- A byte and no flag: MOVWF, MOVLW, RETLW (R136). -/
def plainResult (value : Byte) : Result := ⟨value, none, none, false⟩

end Sys2Proof.Machine
end

