-- ==== Sys2Proof/Machine/Operands.lean ====
section
/-! DEFINITION. The operand forms: a file register read and a destination chosen by `d`, a file register
read and written, a literal, a bit test (30_encoding.md R82, 40_datapath.md R131 to R135). Every read
sees the state before the instruction (R140). -/

namespace Sys2Proof.Machine

/-- What a meaning answers. -/
abbrev Answer := Host.Outcome State Fault Refusal

/-- Write a byte to the destination that `d` selects (R90, R131). -/
def State.writeDest (s : State) (d : Dest) (f : FAddr) (v : Byte) : State :=
  match d with
  | .w => { s with w := v }
  | .f => s.memWrite f v

/-- An instruction that reads file register `f`, computes from the byte read and writes the destination
`d` selects (R130, R133). -/
def fileOp (f : FAddr) (d : Dest) (result : Byte → Result) (s : State) : Answer :=
  let r := result (s.fileByte f)
  .next ((((s.recordRead f).setFlags r).writeDest d f r.value).advance r.skip)

/-- An instruction that writes file register `f` and reads none (MOVWF, R180). -/
def storeOp (f : FAddr) (r : Result) (s : State) : Answer :=
  .next (((s.setFlags r).memWrite f r.value).advance r.skip)

/-- An instruction with no bus access that writes W (R131). -/
def accumulatorOp (r : Result) (s : State) : Answer :=
  .next { (s.setFlags r) with w := r.value, pc := s.pc + 1#12, pause := r.skip }

/-- An instruction that reads bit `b` of `f` and only decides whether to skip, which it does only where
the parameter `bitTestSkip` holds (R142, R232, R233). -/
def bitTestOp (f : FAddr) (b : BitIdx) (skipsOn : Bool) (s : State) : Answer :=
  .next ((s.recordRead f).advance (s.bitTestSkip && (s.fileByte f).getLsbD b.toNat == skipsOn))

/-- Pop the call stack into the PC (R121, R141). -/
def returnOp (s : State) : Answer := .next (s.pop.jump s.top)

/-- Do nothing but advance (R160). -/
def noOp (s : State) : Answer := .next (s.advance false)

end Sys2Proof.Machine
end

