-- ==== Sys2Proof/Machine/BitOriented.lean ====
section
/-! DEFINITION. The bit-oriented file-register instructions (43_bit_oriented.md). -/

namespace Sys2Proof.Machine

/-- BCF: the destination is always the file register (R230). -/
def execBcf (f : FAddr) (b : BitIdx) (s : State) : Answer := fileOp f .f (fun fv => bitResult .bitclr fv s.c b) s

/-- BSF (R231). -/
def execBsf (f : FAddr) (b : BitIdx) (s : State) : Answer := fileOp f .f (fun fv => bitResult .bitset fv s.c b) s

/-- BTFSC: skip if clear, where `bitTestSkip` holds (R232, D12). -/
def execBtfsc (f : FAddr) (b : BitIdx) (s : State) : Answer := bitTestOp f b false s

/-- BTFSS: skip if set, where `bitTestSkip` holds (R233, D12). -/
def execBtfss (f : FAddr) (b : BitIdx) (s : State) : Answer := bitTestOp f b true s

end Sys2Proof.Machine
end

