-- ==== Sys2Proof/Machine/ByteOriented.lean ====
section
/-! DEFINITION. The byte-oriented file-register instructions (42_byte_oriented.md). -/

namespace Sys2Proof.Machine

/-- MOVWF: W to `f`, no read (R180). -/
def execMovwf (f : FAddr) (s : State) : Answer := storeOp f (plainResult s.w) s

/-- CLRW (R181). -/
def execClrw (s : State) : Answer := accumulatorOp (zeroTested 0#8) s

/-- CLRF: in this core it clears W, and `f` is neither read nor written (R182, D11). -/
def execClrf (_f : FAddr) (s : State) : Answer := accumulatorOp (zeroTested 0#8) s

/-- SUBWF: W minus `f` (R183, D25). -/
def execSubwf (f : FAddr) (d : Dest) (s : State) : Answer := fileOp f d (arithResult .sub s.w) s

/-- DECF (R184). -/
def execDecf (f : FAddr) (d : Dest) (s : State) : Answer := fileOp f d (arithResult .dec 0#8) s

/-- IORWF (R185). -/
def execIorwf (f : FAddr) (d : Dest) (s : State) : Answer := fileOp f d (logicResult .or s.w) s

/-- ANDWF (R186). -/
def execAndwf (f : FAddr) (d : Dest) (s : State) : Answer := fileOp f d (logicResult .and s.w) s

/-- XORWF (R187). -/
def execXorwf (f : FAddr) (d : Dest) (s : State) : Answer := fileOp f d (logicResult .xor s.w) s

/-- ADDWF (R188). -/
def execAddwf (f : FAddr) (d : Dest) (s : State) : Answer := fileOp f d (arithResult .add s.w) s

/-- MOVF (R189). -/
def execMovf (f : FAddr) (d : Dest) (s : State) : Answer := fileOp f d (fun fv => zeroTested fv) s

/-- COMF (R190). -/
def execComf (f : FAddr) (d : Dest) (s : State) : Answer := fileOp f d (fun fv => zeroTested (~~~fv)) s

/-- INCF (R191). -/
def execIncf (f : FAddr) (d : Dest) (s : State) : Answer := fileOp f d (arithResult .inc 0#8) s

/-- DECFSZ (R192). -/
def execDecfsz (f : FAddr) (d : Dest) (s : State) : Answer := fileOp f d (arithSkipResult .dec) s

/-- RRF (R193). -/
def execRrf (f : FAddr) (d : Dest) (s : State) : Answer := fileOp f d (fun fv => bitResult .rotr fv s.c 0#3) s

/-- RLF (R194). -/
def execRlf (f : FAddr) (d : Dest) (s : State) : Answer := fileOp f d (fun fv => bitResult .rotl fv s.c 0#3) s

/-- SWAPF (R195). -/
def execSwapf (f : FAddr) (d : Dest) (s : State) : Answer := fileOp f d (fun fv => bitResult .swap fv s.c 0#3) s

/-- INCFSZ (R196). -/
def execIncfsz (f : FAddr) (d : Dest) (s : State) : Answer := fileOp f d (arithSkipResult .inc) s

end Sys2Proof.Machine
end

