-- ==== Sys2Proof/Machine/Control.lean ====
section
/-! DEFINITION. The fixed-word and control-transfer instructions (41_control_misc.md, 44_literal_control.md). -/

namespace Sys2Proof.Machine

/-- NOP (R160). -/
def execNop (s : State) : Answer := noOp s

/-- RETURN (R161). -/
def execReturn (s : State) : Answer := returnOp s

/-- RETFIE: exactly RETURN in this core (R162, D14). -/
def execRetfie (s : State) : Answer := returnOp s

/-- SLEEP: exactly NOP in this core (R163, D13). -/
def execSleep (s : State) : Answer := noOp s

/-- CALL: push PC + 1, go to the target (R250). -/
def execCall (a : Target) (s : State) : Answer := .next ((s.push (s.pc + 1#12)).jump (s.target a))

/-- GOTO (R251). -/
def execGoto (a : Target) (s : State) : Answer := .next (s.jump (s.target a))

/-- RETLW: the literal to W, and return (R253). -/
def execRetlw (k : Byte) (s : State) : Answer := returnOp { s with w := k }

end Sys2Proof.Machine
end

