-- ==== Sys2Proof/Machine/Literal.lean ====
section
/-! DEFINITION. The literal instructions that stay in line (44_literal_control.md). -/

namespace Sys2Proof.Machine

/-- MOVLW (R252). -/
def execMovlw (k : Byte) (s : State) : Answer := accumulatorOp (plainResult k) s

/-- IORLW (R254). -/
def execIorlw (k : Byte) (s : State) : Answer := accumulatorOp (logicResult .or s.w k) s

/-- ANDLW (R255). -/
def execAndlw (k : Byte) (s : State) : Answer := accumulatorOp (logicResult .and s.w k) s

/-- XORLW (R256). -/
def execXorlw (k : Byte) (s : State) : Answer := accumulatorOp (logicResult .xor s.w k) s

/-- SUBLW: W minus `k` (R257, D25). -/
def execSublw (k : Byte) (s : State) : Answer := accumulatorOp (arithResult .sub s.w k) s

/-- ADDLW (R258). -/
def execAddlw (k : Byte) (s : State) : Answer := accumulatorOp (arithResult .add s.w k) s

end Sys2Proof.Machine
end

