-- ==== Sys2Proof/Machine/Step.lean ====
section
/-! DEFINITION. One instruction window as one step (40_datapath.md R130): fetch, force NOP when paused,
decode, execute. -/

namespace Sys2Proof.Machine

/-- The step of R130. The fetch is always made; a paused step runs the all-zero word (R142). -/
def step (s : State) : Host.Outcome State Fault Refusal :=
  exec (decode s.windowWord) s.recordFetch

/-- The state whose next step runs exactly the given word: the word stands at the PC, and the pause flag,
which would replace it by NOP, is clear (R142). -/
def State.withFetchWord (s : State) (nbits w : Nat) : State :=
  { s with prog := Memory.write s.prog s.pc.toNat (BitVec.ofNat 14 (w % 2 ^ nbits)), pause := false }

end Sys2Proof.Machine
end

