-- ==== Sys2Proof/Machine/Datapath.lean ====
section
/-! DEFINITION. The controller's view of an instruction: the classification table of 40_datapath.md R144
and the shared step of R130 over it. It is written from R130 to R142 and not from the instruction rules,
so that the two renderings can be compared; the cycle-level machine uses the table. -/

namespace Sys2Proof.Machine

/-- Where the result comes from (R136). -/
inductive ResultClass where
  | arith (op : ArithOp)
  | logic (op : LogicOp)
  | bit (op : BitOp)
  | zero
  | literal
  | passW
  | passF
  | complement
  | none
deriving DecidableEq, Repr

/-- Where the result goes (R131). -/
inductive DestClass where
  /-- The d-family: chosen by bit 7. -/
  | byD
  | file
  | acc
  | none
deriving DecidableEq, Repr

/-- How the next PC is formed (R141). -/
inductive Flow where
  | next
  | call
  | goto
  | ret
deriving DecidableEq, Repr

/-- When the pause flag is set (R142). -/
inductive SkipClass where
  | never
  | onZero
  | onBit (value : Bool)
deriving DecidableEq, Repr

/-- One row of R144. -/
structure Classification where
  readsW : Bool
  readsF : Bool
  readsK : Bool
  source : ResultClass
  dest : DestClass
  writesZ : Bool
  writesC : Bool
  flow : Flow
  skip : SkipClass
deriving DecidableEq, Repr

/-- The row of an opcode (R131 to R142, R144). -/
def classify : Instr → Classification
  | .nop => ⟨false, false, false, .none, .none, false, false, .next, .never⟩
  | .ret => ⟨false, false, false, .none, .none, false, false, .ret, .never⟩
  | .retfie => ⟨false, false, false, .none, .none, false, false, .ret, .never⟩
  | .sleep => ⟨false, false, false, .none, .none, false, false, .next, .never⟩
  | .movwf _ => ⟨true, false, false, .passW, .byD, false, false, .next, .never⟩
  | .clrw => ⟨false, false, false, .zero, .acc, true, false, .next, .never⟩
  | .clrf _ => ⟨false, false, false, .zero, .acc, true, false, .next, .never⟩
  | .subwf _ _ => ⟨true, true, false, .arith .sub, .byD, true, true, .next, .never⟩
  | .decf _ _ => ⟨false, true, false, .arith .dec, .byD, true, true, .next, .never⟩
  | .iorwf _ _ => ⟨true, true, false, .logic .or, .byD, true, false, .next, .never⟩
  | .andwf _ _ => ⟨true, true, false, .logic .and, .byD, true, false, .next, .never⟩
  | .xorwf _ _ => ⟨true, true, false, .logic .xor, .byD, true, false, .next, .never⟩
  | .addwf _ _ => ⟨true, true, false, .arith .add, .byD, true, true, .next, .never⟩
  | .movf _ _ => ⟨false, true, false, .passF, .byD, true, false, .next, .never⟩
  | .comf _ _ => ⟨false, true, false, .complement, .byD, true, false, .next, .never⟩
  | .incf _ _ => ⟨false, true, false, .arith .inc, .byD, true, true, .next, .never⟩
  | .decfsz _ _ => ⟨false, true, false, .arith .dec, .byD, false, true, .next, .onZero⟩
  | .rrf _ _ => ⟨false, true, false, .bit .rotr, .byD, false, true, .next, .never⟩
  | .rlf _ _ => ⟨false, true, false, .bit .rotl, .byD, false, true, .next, .never⟩
  | .swapf _ _ => ⟨false, true, false, .bit .swap, .byD, false, true, .next, .never⟩
  | .incfsz _ _ => ⟨false, true, false, .arith .inc, .byD, false, true, .next, .onZero⟩
  | .bcf _ _ => ⟨false, true, false, .bit .bitclr, .file, false, true, .next, .never⟩
  | .bsf _ _ => ⟨false, true, false, .bit .bitset, .file, false, true, .next, .never⟩
  | .btfsc _ _ => ⟨false, true, false, .none, .none, false, false, .next, .onBit false⟩
  | .btfss _ _ => ⟨false, true, false, .none, .none, false, false, .next, .onBit true⟩
  | .call _ => ⟨false, false, false, .none, .none, false, false, .call, .never⟩
  | .goto _ => ⟨false, false, false, .none, .none, false, false, .goto, .never⟩
  | .movlw _ => ⟨false, false, true, .literal, .acc, false, false, .next, .never⟩
  | .retlw _ => ⟨false, false, true, .literal, .acc, false, false, .ret, .never⟩
  | .iorlw _ => ⟨true, false, true, .logic .or, .acc, true, false, .next, .never⟩
  | .andlw _ => ⟨true, false, true, .logic .and, .acc, true, false, .next, .never⟩
  | .xorlw _ => ⟨true, false, true, .logic .xor, .acc, true, false, .next, .never⟩
  | .sublw _ => ⟨true, false, true, .arith .sub, .acc, true, true, .next, .never⟩
  | .addlw _ => ⟨true, false, true, .arith .add, .acc, true, true, .next, .never⟩

/-- The destination once the `d` bit is known; `none` writes neither (R131). -/
def DestClass.resolve (c : DestClass) (d : Dest) : Option Dest :=
  match c with
  | .byD => some d
  | .file => some .f
  | .acc => some .w
  | .none => Option.none

/-- The result of the one unit or source that the class selects (R136). -/
def ResultClass.value (c : ResultClass) (lhs rhs negRhs : Byte) (targetBit : BitIdx) (carryIn : Bool) : Byte :=
  match c with
  | .arith op => (arithUnit true op lhs rhs negRhs).1
  | .logic op => logicUnit true op lhs rhs
  | .bit op => (bitUnit true op rhs carryIn targetBit).1
  | .zero => 0#8
  | .literal => rhs
  | .passW => lhs
  | .passF => rhs
  | .complement => ~~~rhs
  | .none => 0#8

/-- The carry the unit gives, before the invert of R116 (R136). -/
def ResultClass.rawCarry (c : ResultClass) (lhs rhs negRhs : Byte) (targetBit : BitIdx) (carryIn : Bool) : Bool :=
  match c with
  | .arith op => (arithUnit true op lhs rhs negRhs).2
  | .bit op => (bitUnit true op rhs carryIn targetBit).2
  | .logic _ => false
  | .zero => false
  | .literal => false
  | .passW => false
  | .passF => false
  | .complement => false
  | .none => false

/-- The invert flag (R116). -/
def ResultClass.inverts : ResultClass → Bool
  | .arith op => op.inverts
  | .logic _ => false
  | .bit _ => false
  | .zero => false
  | .literal => false
  | .passW => false
  | .passF => false
  | .complement => false
  | .none => false

/-- The skip signal `zsig` of the instruction word `ir` (R136, R137, D33). For the bit, literal, passW and
none classes the spec gives no value (91_not_in_source.md N10), no instruction observes one, and the model
leaves it free: DESIGN CHOICE, log entry 14. -/
def ResultClass.zeroSignal (c : ResultClass) (ir : InsnWord) (lhs rhs negRhs : Byte) : Bool :=
  match c with
  | .arith op => (arithUnit true op lhs rhs negRhs).1 == 0#8
  | .logic _ => (arithUnit true .add lhs rhs negRhs).1 == 0#8
  | .zero => true
  | .passF => rhs == 0#8
  | .complement => rhs == 0xFF#8
  | .bit _ => Config.openSkip ir lhs rhs
  | .literal => Config.openSkip ir lhs rhs
  | .passW => Config.openSkip ir lhs rhs
  | .none => Config.openSkip ir lhs rhs

/-- The left operand (R132, R135). -/
def Classification.lhs (c : Classification) (w : Byte) : Byte := if c.readsW then w else 0#8

/-- The right operand (R133 to R135). -/
def Classification.rhs (c : Classification) (fv k : Byte) : Byte :=
  if c.readsF then fv else if c.readsK then k else 0#8

/-- The skip condition (R142). -/
def SkipClass.holds (c : SkipClass) (bitTestSkip zsig : Bool) (fv : Byte) (b : BitIdx) : Bool :=
  match c with
  | .never => false
  | .onZero => zsig
  | .onBit value => bitTestSkip && fv.getLsbD b.toNat == value

/-- The next PC, with the push or pop (R141). -/
def State.follow (s : State) (flow : Flow) (a : Target) : State :=
  match flow with
  | .next => { s with pc := s.pc + 1#12 }
  | .call => { s.push (s.pc + 1#12) with pc := s.target a }
  | .goto => { s with pc := s.target a }
  | .ret => { s.pop with pc := s.top }

/-- Write the result where it goes (R131). -/
def State.writeResult (s : State) (dest : Option Dest) (f : FAddr) (r : Byte) : State :=
  match dest with
  | some d => s.writeDest d f r
  | none => s

/-- The step of R130 after its fetch, for the word in the window: the same function for every opcode,
driven by the row of R144. -/
def datapathStep (word : InsnWord) (s : State) : State :=
  let c := classify (decode word)
  let fv := if c.readsF then s.fileByte (fieldF word) else 0#8
  let lhs := c.lhs s.w
  let rhs := c.rhs fv (fieldK word)
  let r := c.source.value lhs rhs (negate rhs) (fieldB word) s.c
  let cout := c.source.rawCarry lhs rhs (negate rhs) (fieldB word) s.c ^^ c.source.inverts
  let zsig := c.source.zeroSignal word lhs rhs (negate rhs)
  let t := if c.readsF then s.recordRead (fieldF word) else s
  let u := t.writeResult (c.dest.resolve (fieldD word)) (fieldF word) r
  let v := { u with
    z := if c.writesZ then zsig else s.z
    c := if c.writesC then cout else s.c
    pause := c.skip.holds s.bitTestSkip zsig fv (fieldB word) }
  v.follow c.flow (fieldA word)

end Sys2Proof.Machine
end

