-- ==== Sys2Proof/Machine/Cycle.lean ====
section
/-! DEFINITION. The four-phase cycle schedule (70_reset_and_hazards.md R314 to R323): one clock of the
core. It gives which bus signal is driven when, while `step` is normative for values (00_scope.md R8). Where the
source does not pin the clock in which an internal latch changes (91_not_in_source.md N11), the choice
made here is log entry 7. -/

namespace Sys2Proof.Machine

/-- The row of the instruction in `IR`. -/
def State.latchedRow (s : State) : Classification := classify (decode s.latch.ir)

/-- The operand latches as the next clock edge leaves them: reloaded every clock from W, the peripheral
read data and `IR`, `targetBit` only for BCF and BSF (R135, R319, R320). Without read data in this clock an
instruction that reads a file register holds `rhs`. -/
def State.loadOperands (s : State) (data : Option Byte) (l : Latches) : Latches :=
  let c := s.latchedRow
  let lhs := c.lhs s.w
  let rhs := c.rhs (data.getD s.latch.rhs) (fieldK s.latch.ir)
  { l with
    lhs := lhs
    rhs := rhs
    negRhs := negate rhs
    targetBit := if c.dest = .file then fieldB s.latch.ir else s.latch.targetBit
    skip := c.source.zeroSignal s.latch.ir lhs rhs (negate rhs) }

/-- The output of the unit or source that the row of the instruction in `IR` selects, on the operand latches
(R136). -/
def State.latchedResult (s : State) : Byte :=
  s.latchedRow.source.value s.latch.lhs s.latch.rhs s.latch.negRhs s.latch.targetBit s.c

/-- The carry output of the same unit, still without its invert (R139). -/
def State.latchedCarry (s : State) : Bool :=
  s.latchedRow.source.rawCarry s.latch.lhs s.latch.rhs s.latch.negRhs s.latch.targetBit s.c

/-- Commit the result of the instruction in `IR` (R315): W or a peripheral write, Z from the skip latch, C
still without its invert, and the pause flag of a skip instruction. -/
def State.commit (s : State) : State :=
  let l := s.latch
  let c := s.latchedRow
  let r := s.latchedResult
  let dest := c.dest.resolve (fieldD l.ir)
  let t := s.writeResult dest (fieldF l.ir) r
  { t with
    z := if c.writesZ then l.skip else s.z
    c := if c.writesC then s.latchedCarry else s.c
    pause := if c.skip = .never then s.pause else c.skip.holds s.bitTestSkip l.skip l.rhs (fieldB l.ir)
    latch := { l with
      invert := c.source.inverts
      periphWrite := dest = some .f
      periphAddr := if dest = some .f then fieldF l.ir else l.periphAddr
      writeData := if dest = some .f then r else l.writeData } }

/-- Phase 0: commit the previous instruction and issue the fetch (R315). -/
def State.phase0 (s : State) : State :=
  let t := s.commit
  { t with latch := { s.loadOperands none t.latch with insnRead := true, phase := 1#2 } }

/-- Phase 1: latch the fetched word, or NOP when paused; finalise the carry; end the write strobe (R316). -/
def State.phase1 (s : State) : State :=
  let l := s.latch
  { s.recordFetch with
    c := s.c ^^ l.invert
    pause := false
    latch := { s.loadOperands none l with
      ir := s.windowWord
      periphAddr := if s.pause then l.periphAddr else fieldF s.fetchWord
      invert := false
      insnRead := false
      periphWrite := false
      phase := 2#2 } }

/-- Phase 2: the read strobe, the stack and the PC (R317). -/
def State.phase2 (s : State) : State :=
  let l := s.latch
  let c := s.latchedRow
  { s.follow c.flow (fieldA l.ir) with
    latch := { s.loadOperands none l with
      periphRead := c.readsF
      push := c.flow = .call
      pop := c.flow = .ret
      phase := 3#2 } }

/-- Phase 3: capture the read data and end the stack and read strobes (R318, R321). -/
def State.phase3 (s : State) : State :=
  let l := s.latch
  let t := if l.periphRead then s.recordRead l.periphAddr else s
  let data := if l.periphRead then some (s.fileByte l.periphAddr) else none
  { t with latch := { s.loadOperands data l with periphRead := false, push := false, pop := false, phase := 0#2 } }

/-- One clock: the phase counter selects the phase and moves on, whatever the state (R34, R314). -/
def clock (s : State) : State :=
  if s.latch.phase = 0#2 then s.phase0
  else if s.latch.phase = 1#2 then s.phase1
  else if s.latch.phase = 2#2 then s.phase2
  else s.phase3

/-- One clock with the reset input: while reset is asserted at the edge, every register takes its reset
value (R311). -/
def clockWithReset (reset : Bool) (stackInit : Vector PAddr 8) (s : State) : State :=
  if reset then s.externalReset stackInit else clock s

/-- One instruction window: four clocks (R314). -/
def window (s : State) : State := clock (clock (clock (clock s)))

/-- The instruction-level state of a cycle-level state at phase 0: the pending result is committed, its
carry final, and the latches are given up (R20, R130: all writes take effect at the end of the step). -/
def State.settle (s : State) : State :=
  let t := s.commit
  { t with c := t.c ^^ t.latch.invert, latch := Latches.reset }

end Sys2Proof.Machine
end

