-- ==== Sys2Proof/Safety.lean ====
section
/-! DEFINITION. The terms in which claims about runs are stated. The core never halts and has no error
state (R143, R326), so a run is safe when every step of it gives a next state. -/

namespace Sys2Proof

open Machine

/-- A run of some number of steps from one state to another. -/
inductive Reaches : State → State → Prop where
  | refl (s : State) : Reaches s s
  | tail {s t u : State} : Reaches s t → step t = .next u → Reaches s u

/-- Every run from the state, of any length, completes. -/
def Safe (s : State) : Prop := ∀ n, ∃ t, Host.Core.run core n s = .next t

/-- The instruction-level states: the latches are at reset (R20). -/
def Idle (s : State) : Prop := s.latch = Latches.reset

/-- The representation invariant: both memories are in canonical form. -/
def Canonical (s : State) : Prop := s.memoriesWf = true

/-- The same state with another zero flag. -/
def withZ (s : State) (z : Bool) : State := { s with z := z }

/-- The same state with another carry flag. -/
def withC (s : State) (c : Bool) : State := { s with c := c }

/-- The state after an instruction that reads `f`, writes `r` to the destination `d` selects, leaves the
flags and pause as given and goes to the next word, field by field (the template of 42_byte_oriented.md).
That a store to the page-select register is at once presented at PCLATH is the spec's assumption D34 (R68)
and the model's log entry 6. -/
def dFamilyNext (s : State) (f : FAddr) (d : Dest) (r : Byte) (z c pause : Bool) : State :=
  match d with
  | .w => { s with
      w := r, z := z, c := c, pause := pause, pc := s.pc + 1#12
      bus := .read f (s.fileByte f) :: s.bus }
  | .f => { s with
      z := z, c := c, pause := pause, pc := s.pc + 1#12
      bus := .write f r :: .read f (s.fileByte f) :: s.bus
      file := if s.ports.contains f then s.file else Memory.write s.file f.toNat r
      pclath := if s.pageSelect = some f then r else s.pclath }

/-- The address an instruction stores to when its destination `d` is chosen by bit 7 (R131). -/
def storesBy (f : FAddr) (d : Dest) : Option FAddr :=
  match d with
  | .w => none
  | .f => some f

/-- The file register an instruction stores to: its operand `f`, where its destination is F (R58, R131). -/
def storesTo : Instr → Option FAddr
  | .nop | .ret | .retfie | .sleep | .clrw | .clrf _ | .btfsc _ _ | .btfss _ _ | .call _ | .goto _ => none
  | .movlw _ | .retlw _ | .iorlw _ | .andlw _ | .xorlw _ | .sublw _ | .addlw _ => none
  | .movwf f | .bcf f _ | .bsf f _ => some f
  | .subwf f d | .decf f d | .iorwf f d | .andwf f d | .xorwf f d | .addwf f d | .movf f d => storesBy f d
  | .comf f d | .incf f d | .decfsz f d | .rrf f d | .rlf f d | .swapf f d | .incfsz f d => storesBy f d

/-- The byte that a storing instruction stores, from the state before it (R136 and the instruction rules; the
operand order is D25, MOVF and COMF are D8 and D9). For an instruction that never stores it says nothing. -/
def storedByte (i : Instr) (s : State) : Byte :=
  match i with
  | .movwf _ => s.w
  | .subwf f _ => s.w - s.fileByte f
  | .decf f _ | .decfsz f _ => s.fileByte f - 1#8
  | .iorwf f _ => s.w ||| s.fileByte f
  | .andwf f _ => s.w &&& s.fileByte f
  | .xorwf f _ => s.w ^^^ s.fileByte f
  | .addwf f _ => s.w + s.fileByte f
  | .movf f _ => s.fileByte f
  | .comf f _ => ~~~s.fileByte f
  | .incf f _ | .incfsz f _ => s.fileByte f + 1#8
  | .rrf f _ => BitVec.ofBool s.c ++ (s.fileByte f).extractLsb' 1 7
  | .rlf f _ => (s.fileByte f).extractLsb' 0 7 ++ BitVec.ofBool s.c
  | .swapf f _ => (s.fileByte f).extractLsb' 0 4 ++ (s.fileByte f).extractLsb' 4 4
  | .bcf f b => s.fileByte f &&& ~~~(1#8 <<< b.toNat)
  | .bsf f b => s.fileByte f ||| (1#8 <<< b.toNat)
  | .nop | .ret | .retfie | .sleep | .clrw | .clrf _ | .btfsc _ _ | .btfss _ _ | .call _ | .goto _ => 0#8
  | .movlw _ | .retlw _ | .iorlw _ | .andlw _ | .xorlw _ | .sublw _ | .addlw _ => 0#8

/-- The file register an instruction reads (R58, R133). -/
def readsFrom : Instr → Option FAddr
  | .nop | .ret | .retfie | .sleep | .clrw | .clrf _ | .movwf _ | .call _ | .goto _ => none
  | .movlw _ | .retlw _ | .iorlw _ | .andlw _ | .xorlw _ | .sublw _ | .addlw _ => none
  | .bcf f _ | .bsf f _ | .btfsc f _ | .btfss f _ => some f
  | .subwf f _ | .decf f _ | .iorwf f _ | .andwf f _ | .xorwf f _ | .addwf f _ | .movf f _ => some f
  | .comf f _ | .incf f _ | .decfsz f _ | .rrf f _ | .rlf f _ | .swapf f _ | .incfsz f _ => some f

/-- Whether a `d`-family destination is W. -/
def Dest.isW : Dest → Bool
  | .w => true
  | .f => false

/-- Whether an instruction's destination is W (R131). -/
def writesW : Instr → Bool
  | .clrw | .clrf _ | .movlw _ | .retlw _ | .iorlw _ | .andlw _ | .xorlw _ | .sublw _ | .addlw _ => true
  | .nop | .ret | .retfie | .sleep | .movwf _ | .bcf _ _ | .bsf _ _ | .btfsc _ _ | .btfss _ _ => false
  | .call _ | .goto _ => false
  | .subwf _ d | .decf _ d | .iorwf _ d | .andwf _ d | .xorwf _ d | .addwf _ d | .movf _ d => d.isW
  | .comf _ d | .incf _ d | .decfsz _ d | .rrf _ d | .rlf _ d | .swapf _ d | .incfsz _ d => d.isW

/-- The opcodes that write Z (R138). -/
def writesZ : Instr → Bool
  | .addwf _ _ | .andwf _ _ | .clrf _ | .clrw | .comf _ _ | .decf _ _ | .incf _ _ | .iorwf _ _ => true
  | .movf _ _ | .subwf _ _ | .xorwf _ _ | .addlw _ | .andlw _ | .iorlw _ | .sublw _ | .xorlw _ => true
  | .nop | .ret | .retfie | .sleep | .movwf _ | .decfsz _ _ | .rrf _ _ | .rlf _ _ | .swapf _ _ => false
  | .incfsz _ _ | .bcf _ _ | .bsf _ _ | .btfsc _ _ | .btfss _ _ | .call _ | .goto _ => false
  | .movlw _ | .retlw _ => false

/-- The opcodes that write C (R139). -/
def writesC : Instr → Bool
  | .addwf _ _ | .addlw _ | .subwf _ _ | .sublw _ | .incf _ _ | .incfsz _ _ | .decf _ _ => true
  | .decfsz _ _ | .rrf _ _ | .rlf _ _ | .swapf _ _ | .bcf _ _ | .bsf _ _ => true
  | .nop | .ret | .retfie | .sleep | .movwf _ | .clrw | .clrf _ | .iorwf _ _ | .andwf _ _ => false
  | .xorwf _ _ | .movf _ _ | .comf _ _ | .btfsc _ _ | .btfss _ _ | .call _ | .goto _ => false
  | .movlw _ | .retlw _ | .iorlw _ | .andlw _ | .xorlw _ => false

/-- The opcodes that read C: the carry-in of the rotates (R26). -/
def readsC : Instr → Bool
  | .rrf _ _ | .rlf _ _ => true
  | .nop | .ret | .retfie | .sleep | .movwf _ | .clrw | .clrf _ | .subwf _ _ | .decf _ _ | .iorwf _ _ => false
  | .andwf _ _ | .xorwf _ _ | .addwf _ _ | .movf _ _ | .comf _ _ | .incf _ _ | .decfsz _ _ | .swapf _ _ => false
  | .incfsz _ _ | .bcf _ _ | .bsf _ _ | .btfsc _ _ | .btfss _ _ | .call _ | .goto _ | .movlw _ => false
  | .retlw _ | .iorlw _ | .andlw _ | .xorlw _ | .sublw _ | .addlw _ => false

/-- The next PC that an instruction gives (R141). -/
def nextPc (i : Instr) (s : State) : PAddr :=
  match i with
  | .call a | .goto a => BitVec.ofBool (s.pclath.getLsbD 3) ++ a
  | .ret | .retfie | .retlw _ => s.top
  | .nop | .sleep | .movwf _ | .clrw | .clrf _ | .subwf _ _ | .decf _ _ | .iorwf _ _ => s.pc + 1#12
  | .andwf _ _ | .xorwf _ _ | .addwf _ _ | .movf _ _ | .comf _ _ | .incf _ _ | .decfsz _ _ => s.pc + 1#12
  | .rrf _ _ | .rlf _ _ | .swapf _ _ | .incfsz _ _ | .bcf _ _ | .bsf _ _ | .btfsc _ _ => s.pc + 1#12
  | .btfss _ _ | .movlw _ | .iorlw _ | .andlw _ | .xorlw _ | .sublw _ | .addlw _ => s.pc + 1#12

/-- The stack operation of an instruction: `some true` a push, `some false` a pop (R29, R141). -/
def stackUse : Instr → Option Bool
  | .call _ => some true
  | .ret | .retfie | .retlw _ => some false
  | .nop | .sleep | .movwf _ | .clrw | .clrf _ | .subwf _ _ | .decf _ _ | .iorwf _ _ | .andwf _ _ => none
  | .xorwf _ _ | .addwf _ _ | .movf _ _ | .comf _ _ | .incf _ _ | .decfsz _ _ | .rrf _ _ | .rlf _ _ => none
  | .swapf _ _ | .incfsz _ _ | .bcf _ _ | .bsf _ _ | .btfsc _ _ | .btfss _ _ | .goto _ | .movlw _ => none
  | .iorlw _ | .andlw _ | .xorlw _ | .sublw _ | .addlw _ => none

/-- The opcodes that can set the pause flag (R33, R142); BTFSC and BTFSS only where they skip at all. -/
def maySkip (bitTestSkip : Bool) : Instr → Bool
  | .incfsz _ _ | .decfsz _ _ => true
  | .btfsc _ _ | .btfss _ _ => bitTestSkip
  | .nop | .ret | .retfie | .sleep | .movwf _ | .clrw | .clrf _ | .subwf _ _ | .decf _ _ | .iorwf _ _ => false
  | .andwf _ _ | .xorwf _ _ | .addwf _ _ | .movf _ _ | .comf _ _ | .incf _ _ | .rrf _ _ | .rlf _ _ => false
  | .swapf _ _ | .bcf _ _ | .bsf _ _ | .call _ | .goto _ | .movlw _ | .retlw _ | .iorlw _ => false
  | .andlw _ | .xorlw _ | .sublw _ | .addlw _ => false

/-- Push the values in order (R123). -/
def pushAll (vs : List PAddr) (s : State) : State := vs.foldl State.push s

/-- The values of `n` pops in order (R123). -/
def popped : Nat → State → List PAddr
  | 0, _ => []
  | n + 1, s => s.top :: popped n s.pop

/-- The state after `n` pops (R123). -/
def popAll : Nat → State → State
  | 0, s => s
  | n + 1, s => popAll n s.pop

/-- `n` instruction windows of the cycle-level machine (R314). -/
def windows : Nat → State → State
  | 0, s => s
  | n + 1, s => windows n (window s)

end Sys2Proof
end

