-- ==== Sys2Proof/Certificates/Slice0/Obligations.lean ====
section
/-! DEFINITION. The statements about the model, each with the rule of spec/ it comes from. Where a rule
rests on a decision that the spec marks as its own choice (D<n> of 92_eei_decisions.md), the docstring says
so. -/

open Sys2Proof Sys2Proof.Machine

/-! ### Encoding -/

/-- Words the spec assembles itself (30_encoding.md R91, 95_test_vectors.md) decode to what they stand for. -/
def Obligations.SpecWordsDecode : Prop :=
  decode 0x0000#14 = .nop ∧ decode 0x0008#14 = .ret ∧ decode 0x0785#14 = .addwf 5#7 .f ∧
  decode 0x00A0#14 = .movwf 0x20#7 ∧ decode 0x1590#14 = .bsf 0x10#7 3#3 ∧ decode 0x301F#14 = .movlw 0x1F#8 ∧
  decode 0x2015#14 = .call 0x015#11 ∧ decode 0x0E88#14 = .swapf 8#7 .f ∧ decode 0x3442#14 = .retlw 0x42#8

/-- Decoding the word of an instruction gives it back, for every instruction and every operand (R83, R84,
R91). -/
def Obligations.DecodeInvertsEncode : Prop := ∀ i : Instr, decode (encode i) = i

/-- No word is accepted by two rows, and the rows in any order make the same decoder (R85, which the spec
derives from R83). -/
def Obligations.DecodeRowsAreDisjoint : Prop :=
  (∀ w, (decodeTable.filter (·.accepts w)).length ≤ 1) ∧
  ∀ rows, List.Perm rows decodeTable → ∀ w, decodeBy rows w = decode w

/-- The words that no row accepts are exactly the 121 of `0x0000..0x007F` and the 256 of `0x3B00..0x3BFF`
that R86 lists, and each executes as NOP (R86 and R87; the count 377 is the sum of the two and is not
restated). -/
def Obligations.ReservedWordsRunAsNop : Prop :=
  (∀ w : InsnWord, reserved w = true ↔
    (w < 0x0080#14 ∧ w ∉ [0x0000#14, 0x0020#14, 0x0040#14, 0x0060#14, 0x0008#14, 0x0009#14, 0x0063#14]) ∨
    (0x3B00#14 ≤ w ∧ w ≤ 0x3BFF#14)) ∧
  ∀ w s, reserved w = true → exec (decode w) s = .next { s with pc := s.pc + 1#12, pause := false }

/-! ### The step -/

/-- A step that is not paused is `exec` of the instruction that the word at the PC decodes to, after the
fetch event (R53, R130). -/
def Obligations.StepRunsDecodedInstruction : Prop :=
  ∀ s i, s.pause = false → decode (Memory.read s.prog s.pc.toNat) = i →
    step s = exec i { s with bus := .fetch s.pc (Memory.read s.prog s.pc.toNat) :: s.bus }

/-- A paused step fetches, makes no peripheral access, writes nothing, goes to the next word and leaves the
pause flag clear, whatever the word (R142; the spec's own choice D31). So a skipped skip never skips. -/
def Obligations.PausedStepOnlyAdvances : Prop :=
  ∀ s, s.pause = true →
    step s = .next { s with
      pc := s.pc + 1#12, pause := false, bus := .fetch s.pc (Memory.read s.prog s.pc.toNat) :: s.bus }

/-- Every word in every state gives a next state, and every run of every length completes: nothing faults,
traps or halts (R143, R290). -/
def Obligations.EveryRunCompletes : Prop :=
  (∀ w s, ∃ t, exec (decode w) s = .next t) ∧ (∀ s, ∃ t, step s = .next t) ∧ ∀ s, Safe s

/-- The pause flag is set only by INCFSZ and DECFSZ, and by BTFSC and BTFSS where `bitTestSkip` holds (R33,
R142; D12 is the spec's open parameter). -/
def Obligations.OnlySkipInstructionsPause : Prop :=
  ∀ i s t, exec i s = .next t → t.pause = true → maySkip s.bitTestSkip i = true

/-- The instruction rules of 41 to 44 agree with the shared step of R130 over the classification table of
R144, for every word in every state (the spec derives R144 from R131 to R142; the sets in it are the spec's
own choices, log entry 12). -/
def Obligations.InstructionRulesAgreeWithDatapath : Prop :=
  (∀ w s, exec (decode w) s = .next (datapathStep w s)) ∧
  ∀ s, step s = .next (datapathStep s.windowWord s.recordFetch)

/-! ### Fixed words and control transfer -/

/-- NOP: its four words and every reserved word decode to it, it only advances, and a step that runs it has
made the fetch and no other bus access (R160). -/
def Obligations.NopOnlyAdvances : Prop :=
  (∀ x : BitVec 2, decode (0b0000000#7 ++ x ++ 0b00000#5) = .nop) ∧
  (∀ w, reserved w = true → decode w = .nop) ∧
  (∀ s, exec .nop s = .next { s with pc := s.pc + 1#12, pause := false }) ∧
  ∀ s, decode s.windowWord = .nop →
    step s = .next { s with
      pc := s.pc + 1#12, pause := false, bus := .fetch s.pc (Memory.read s.prog s.pc.toNat) :: s.bus }

/-- RETURN pops the stack into the PC and changes nothing else but `pause` (R161). -/
def Obligations.ReturnPopsIntoPc : Prop :=
  decode 0b00000000001000#14 = .ret ∧
  ∀ s, exec .ret s = .next { s with
    pc := s.stack[(s.count - 1#3).toNat]'(s.count - 1#3).isLt, count := s.count - 1#3, pause := false }

/-- RETFIE is RETURN and SLEEP is NOP (R162, R163; the spec's own choices D14 and D13). -/
def Obligations.RetfieIsReturnAndSleepIsNop : Prop :=
  decode 0b00000000001001#14 = .retfie ∧ decode 0b00000001100011#14 = .sleep ∧
  (∀ s, exec .retfie s = .next { s with
    pc := s.stack[(s.count - 1#3).toNat]'(s.count - 1#3).isLt, count := s.count - 1#3, pause := false }) ∧
  ∀ s, exec .sleep s = .next { s with pc := s.pc + 1#12, pause := false }

/-- CALL pushes PC + 1 and goes to `{PCLATH[3], a}`; GOTO goes there and leaves the stack (R250, R251; that
PCLATH bit 4 is dropped is the spec's own choice D3). -/
def Obligations.CallAndGotoTakeTheTarget : Prop :=
  (∀ a, decode (0b100#3 ++ a) = .call a ∧ decode (0b101#3 ++ a) = .goto a) ∧
  ∀ a s,
    exec (.call a) s = .next { s with
      stack := s.stack.set s.count.toNat (s.pc + 1#12) s.count.isLt, count := s.count + 1#3
      pc := BitVec.ofBool (s.pclath.getLsbD 3) ++ a, pause := false } ∧
    exec (.goto a) s = .next { s with pc := BitVec.ofBool (s.pclath.getLsbD 3) ++ a, pause := false }

/-- A CALL and then a RETURN come back to the word after the CALL with `pause` clear; of the rest of the state
only the slot that the count names is changed, and holds the return address (R161, R250, R324; the PC wrap of
the return address is the spec's own choice D28). -/
def Obligations.ReturnUndoesCall : Prop :=
  ∀ a s, ∃ t, exec (.call a) s = .next t ∧
    exec .ret t = .next { s with
      pc := s.pc + 1#12, pause := false, stack := s.stack.set s.count.toNat (s.pc + 1#12) s.count.isLt }

/-! ### Literal instructions -/

/-- MOVLW writes its literal to W and no flag; RETLW does so too and pops the stack into the PC (R252, R253). -/
def Obligations.MovlwAndRetlwLoadLiteral : Prop :=
  (∀ (x : BitVec 2) k, decode (0b1100#4 ++ x ++ k) = .movlw k ∧ decode (0b1101#4 ++ x ++ k) = .retlw k) ∧
  ∀ k s,
    exec (.movlw k) s = .next { s with w := k, pc := s.pc + 1#12, pause := false } ∧
    exec (.retlw k) s = .next { s with
      w := k, pc := s.stack[(s.count - 1#3).toNat]'(s.count - 1#3).isLt, count := s.count - 1#3, pause := false }

/-- IORLW, ANDLW and XORLW: the logic result to W, Z from the sum of the old W and the literal, C unchanged
(R254, R255, R256). -/
def Obligations.LiteralLogicTakesZFromSum : Prop :=
  (∀ k, decode (0b111000#6 ++ k) = .iorlw k ∧ decode (0b111001#6 ++ k) = .andlw k ∧
    decode (0b111010#6 ++ k) = .xorlw k) ∧
  ∀ k s,
    exec (.iorlw k) s = .next { s with w := s.w ||| k, z := s.w + k == 0#8, pc := s.pc + 1#12, pause := false } ∧
    exec (.andlw k) s = .next { s with w := s.w &&& k, z := s.w + k == 0#8, pc := s.pc + 1#12, pause := false } ∧
    exec (.xorlw k) s = .next { s with w := s.w ^^^ k, z := s.w + k == 0#8, pc := s.pc + 1#12, pause := false }

/-- ADDLW: the sum modulo 256 to W, Z from it, C when the sum is at least 256 (R258). -/
def Obligations.AddlwAddsWithCarry : Prop :=
  (∀ (x : BitVec 1) k, decode (0b11111#5 ++ x ++ k) = .addlw k) ∧
  ∀ k s, exec (.addlw k) s = .next { s with
    w := s.w + k, z := s.w + k == 0#8, c := decide (256 ≤ s.w.toNat + k.toNat), pc := s.pc + 1#12, pause := false }

/-- SUBLW: W minus the literal, C a borrow and also set when the literal is 0 (R257; the operand order and
the carry after subtracting 0 are the spec's own choices D25 and D5). -/
def Obligations.SublwSubtractsLiteralFromW : Prop :=
  (∀ (x : BitVec 1) k, decode (0b11110#5 ++ x ++ k) = .sublw k) ∧
  ∀ k s, exec (.sublw k) s = .next { s with
    w := s.w - k, z := s.w - k == 0#8, c := decide (s.w < k) || k == 0#8, pc := s.pc + 1#12, pause := false }

/-! ### Byte-oriented instructions -/

/-- MOVWF writes W to `f` with no read and no flag (R180; the destination is the spec's own choice D10; that a
store to the page-select register reaches PCLATH at once is D34, R68, and the model's log entry 6). -/
def Obligations.MovwfStoresW : Prop :=
  (∀ f, decode (0b0000001#7 ++ f) = .movwf f) ∧
  ∀ f s, exec (.movwf f) s = .next { s with
    bus := .write f s.w :: s.bus
    file := if s.ports.contains f then s.file else Memory.write s.file f.toNat s.w
    pclath := if s.pageSelect = some f then s.w else s.pclath
    pc := s.pc + 1#12, pause := false }

/-- CLRW and CLRF clear W and set Z with no bus access; CLRF leaves `f` alone (R181, R182; that they write Z
and that CLRF writes W are the spec's own choices D6 and D11). -/
def Obligations.ClrwAndClrfClearW : Prop :=
  (∀ x : BitVec 7, decode (0b0000010#7 ++ x) = .clrw) ∧ (∀ f, decode (0b0000011#7 ++ f) = .clrf f) ∧
  ∀ f s,
    exec .clrw s = .next { s with w := 0#8, z := true, pc := s.pc + 1#12, pause := false } ∧
    exec (.clrf f) s = .next { s with w := 0#8, z := true, pc := s.pc + 1#12, pause := false }

/-- SUBWF: W minus `f`, C a borrow and also set when `f` is 0 (R183; the spec's own choices D25 and D5; that
a store to the page-select register reaches PCLATH at once is D34, R68, and the model's log entry 6). -/
def Obligations.SubwfSubtractsFileFromW : Prop :=
  (∀ f d, decode (0b000010#6 ++ d.bit ++ f) = .subwf f d) ∧
  ∀ f d s, exec (.subwf f d) s = .next
    (dFamilyNext s f d (s.w - s.fileByte f) (s.w - s.fileByte f == 0#8)
      (decide (s.w < s.fileByte f) || s.fileByte f == 0#8) false)

/-- ADDWF: the sum modulo 256, Z from it, C when the sum is at least 256 (R188; that a store to the page-select
register reaches PCLATH at once is D34, R68, and the model's log entry 6). -/
def Obligations.AddwfAddsWithCarry : Prop :=
  (∀ f d, decode (0b000111#6 ++ d.bit ++ f) = .addwf f d) ∧
  ∀ f d s, exec (.addwf f d) s = .next
    (dFamilyNext s f d (s.w + s.fileByte f) (s.w + s.fileByte f == 0#8)
      (decide (256 ≤ s.w.toNat + (s.fileByte f).toNat)) false)

/-- IORWF, ANDWF and XORWF: the logic result, Z from the sum of W and `f`, C unchanged (R185, R186, R187;
that a store to the page-select register reaches PCLATH at once is D34, R68, and the model's log entry 6). -/
def Obligations.FileLogicTakesZFromSum : Prop :=
  (∀ f d, decode (0b000100#6 ++ d.bit ++ f) = .iorwf f d ∧ decode (0b000101#6 ++ d.bit ++ f) = .andwf f d ∧
    decode (0b000110#6 ++ d.bit ++ f) = .xorwf f d) ∧
  ∀ f d s,
    exec (.iorwf f d) s = .next
      (dFamilyNext s f d (s.w ||| s.fileByte f) (s.w + s.fileByte f == 0#8) s.c false) ∧
    exec (.andwf f d) s = .next
      (dFamilyNext s f d (s.w &&& s.fileByte f) (s.w + s.fileByte f == 0#8) s.c false) ∧
    exec (.xorwf f d) s = .next
      (dFamilyNext s f d (s.w ^^^ s.fileByte f) (s.w + s.fileByte f == 0#8) s.c false)

/-- DECF and INCF: one less and one more modulo 256, Z from the result, C at the wrap (R184, R191; that they
write C is the spec's own choice D7; that a store to the page-select register reaches PCLATH at once is D34,
R68, and the model's log entry 6). -/
def Obligations.DecfAndIncfCountAndWriteCarry : Prop :=
  (∀ f d, decode (0b000011#6 ++ d.bit ++ f) = .decf f d ∧ decode (0b001010#6 ++ d.bit ++ f) = .incf f d) ∧
  ∀ f d s,
    exec (.decf f d) s = .next
      (dFamilyNext s f d (s.fileByte f - 1#8) (s.fileByte f - 1#8 == 0#8) (s.fileByte f == 0#8) false) ∧
    exec (.incf f d) s = .next
      (dFamilyNext s f d (s.fileByte f + 1#8) (s.fileByte f + 1#8 == 0#8) (s.fileByte f == 0xFF#8) false)

/-- MOVF and COMF: `f` and its complement, Z from the result, C unchanged (R189, R190; the spec's own choices
D8 and D9; that a store to the page-select register reaches PCLATH at once is D34, R68, and the model's log
entry 6). -/
def Obligations.MovfAndComfTestZero : Prop :=
  (∀ f d, decode (0b001000#6 ++ d.bit ++ f) = .movf f d ∧ decode (0b001001#6 ++ d.bit ++ f) = .comf f d) ∧
  ∀ f d s,
    exec (.movf f d) s = .next (dFamilyNext s f d (s.fileByte f) (s.fileByte f == 0#8) s.c false) ∧
    exec (.comf f d) s = .next (dFamilyNext s f d (~~~s.fileByte f) (s.fileByte f == 0xFF#8) s.c false)

/-- DECFSZ and INCFSZ: the count, C at the wrap, Z unchanged, and pause when the result is 0; then control
reaches PC + 2 after two steps (R192, R196, R142; C, Z and the skipped window are the spec's own choices D7,
D6 and D31; that a store to the page-select register reaches PCLATH at once is D34, R68, and the model's log
entry 6). -/
def Obligations.DecfszAndIncfszSkipOnZero : Prop :=
  (∀ f d, decode (0b001011#6 ++ d.bit ++ f) = .decfsz f d ∧ decode (0b001111#6 ++ d.bit ++ f) = .incfsz f d) ∧
  (∀ f d s,
    exec (.decfsz f d) s = .next
      (dFamilyNext s f d (s.fileByte f - 1#8) s.z (s.fileByte f == 0#8) (s.fileByte f - 1#8 == 0#8)) ∧
    exec (.incfsz f d) s = .next
      (dFamilyNext s f d (s.fileByte f + 1#8) s.z (s.fileByte f == 0xFF#8) (s.fileByte f + 1#8 == 0#8))) ∧
  (∀ f d s, s.fileByte f = 1#8 →
    ∃ t u, exec (.decfsz f d) s = .next t ∧ step t = .next u ∧ u.pc = s.pc + 2#12) ∧
  ∀ f d s, s.fileByte f = 0xFF#8 →
    ∃ t u, exec (.incfsz f d) s = .next t ∧ step t = .next u ∧ u.pc = s.pc + 2#12

/-- RRF and RLF rotate through C, Z unchanged; RLF then RRF on the same plain-memory location restores the
byte and C (R193, R194; the canonical form is the model's own, log entry 2; that a store to the page-select
register reaches PCLATH at once is D34, R68, and log entry 6). -/
def Obligations.RotatesGoThroughCarry : Prop :=
  (∀ f d, decode (0b001100#6 ++ d.bit ++ f) = .rrf f d ∧ decode (0b001101#6 ++ d.bit ++ f) = .rlf f d) ∧
  (∀ f s, Canonical s → f ∉ s.ports → ∃ t u, exec (.rlf f .f) s = .next t ∧ exec (.rrf f .f) t = .next u ∧
    u.fileByte f = s.fileByte f ∧ u.c = s.c) ∧
  ∀ f d s,
    exec (.rrf f d) s = .next
      (dFamilyNext s f d (BitVec.ofBool s.c ++ (s.fileByte f).extractLsb' 1 7) s.z ((s.fileByte f).getLsbD 0) false) ∧
    exec (.rlf f d) s = .next
      (dFamilyNext s f d ((s.fileByte f).extractLsb' 0 7 ++ BitVec.ofBool s.c) s.z ((s.fileByte f).getLsbD 7) false)

/-- SWAPF swaps the nibbles and clears C; Z unchanged (R195; that C is cleared is the spec's own choice D7;
that a store to the page-select register reaches PCLATH at once is D34, R68, and the model's log entry 6). -/
def Obligations.SwapfSwapsAndClearsCarry : Prop :=
  (∀ f d, decode (0b001110#6 ++ d.bit ++ f) = .swapf f d) ∧
  ∀ f d s, exec (.swapf f d) s = .next
    (dFamilyNext s f d ((s.fileByte f).extractLsb' 0 4 ++ (s.fileByte f).extractLsb' 4 4) s.z false false)

/-! ### Bit-oriented instructions -/

/-- BCF and BSF read `f`, change bit `b` and write `f` back, and clear C; Z unchanged (R230, R231; that C is
cleared is the spec's own choice D7; that a store to the page-select register reaches PCLATH at once is D34,
R68, and the model's log entry 6). -/
def Obligations.BcfAndBsfWriteTheBit : Prop :=
  (∀ f b, decode (0b0100#4 ++ b ++ f) = .bcf f b ∧ decode (0b0101#4 ++ b ++ f) = .bsf f b) ∧
  ∀ f b s,
    exec (.bcf f b) s = .next
      (dFamilyNext s f .f (s.fileByte f &&& ~~~(1#8 <<< b.toNat)) s.z false false) ∧
    exec (.bsf f b) s = .next (dFamilyNext s f .f (s.fileByte f ||| (1#8 <<< b.toNat)) s.z false false)

/-- BTFSC and BTFSS read `f`, write nothing but pause, and skip on the bit only where `bitTestSkip` holds
(R232, R233; the skip is the spec's open parameter D12, and the statement holds for both values). -/
def Obligations.BitTestsSkipUnderParameter : Prop :=
  (∀ f b, decode (0b0110#4 ++ b ++ f) = .btfsc f b ∧ decode (0b0111#4 ++ b ++ f) = .btfss f b) ∧
  ∀ f b s,
    exec (.btfsc f b) s = .next { s with
      pause := s.bitTestSkip && !(s.fileByte f).getLsbD b.toNat
      pc := s.pc + 1#12, bus := .read f (s.fileByte f) :: s.bus } ∧
    exec (.btfss f b) s = .next { s with
      pause := s.bitTestSkip && (s.fileByte f).getLsbD b.toNat
      pc := s.pc + 1#12, bus := .read f (s.fileByte f) :: s.bus }

/-! ### Execution units -/

/-- ADD, INC and DEC: the results modulo 256 and the raw carries (R111, R113, R114). -/
def Obligations.ArithmeticUnitSums : Prop :=
  ∀ lhs rhs n : Byte,
    arithUnit true .add lhs rhs n = (lhs + rhs, decide (256 ≤ lhs.toNat + rhs.toNat)) ∧
    arithUnit true .inc lhs rhs n = (rhs + 1#8, rhs == 0xFF#8) ∧
    arithUnit true .dec lhs rhs n = (rhs - 1#8, rhs != 0#8)

/-- SUB of an operand and its 8-bit negation is the difference, and the committed carries have the closed
forms of R116 (which the spec derives; the 8-bit negation is its own choice D5). -/
def Obligations.CommittedCarryClosedForms : Prop :=
  ∀ lhs rhs : Byte,
    arithValue .sub lhs rhs = lhs - rhs ∧
    arithCarry .add lhs rhs = decide (256 ≤ lhs.toNat + rhs.toNat) ∧
    arithCarry .sub lhs rhs = (decide (lhs < rhs) || rhs == 0#8) ∧
    arithCarry .inc lhs rhs = (rhs == 0xFF#8) ∧
    arithCarry .dec lhs rhs = (rhs == 0#8)

/-- The logic unit bit by bit; NONE and a disabled unit yield 0 (R117). -/
def Obligations.LogicUnitBits : Prop :=
  (∀ (lhs rhs : Byte) (i : Nat),
    (logicUnit true .and lhs rhs).getLsbD i = (lhs.getLsbD i && rhs.getLsbD i) ∧
    (logicUnit true .or lhs rhs).getLsbD i = (lhs.getLsbD i || rhs.getLsbD i) ∧
    (logicUnit true .xor lhs rhs).getLsbD i = (lhs.getLsbD i ^^ rhs.getLsbD i)) ∧
  ∀ op lhs rhs, logicUnit true .none lhs rhs = 0#8 ∧ logicUnit false op lhs rhs = 0#8

/-- The bit unit, bit by bit: rotates, nibble swap, bit clear, bit set, their carry out, and 0 when NONE or
disabled (R118). -/
def Obligations.BitUnitBits : Prop :=
  ∀ (v : Byte) (c : Bool) (b : BitIdx),
    (∀ i, i < 8 →
      (bitUnit true .rotr v c b).1.getLsbD i = (if i = 7 then c else v.getLsbD (i + 1)) ∧
      (bitUnit true .rotl v c b).1.getLsbD i = (if i = 0 then c else v.getLsbD (i - 1)) ∧
      (bitUnit true .swap v c b).1.getLsbD i = v.getLsbD ((i + 4) % 8) ∧
      (bitUnit true .bitclr v c b).1.getLsbD i = (if i = b.toNat then false else v.getLsbD i) ∧
      (bitUnit true .bitset v c b).1.getLsbD i = (if i = b.toNat then true else v.getLsbD i)) ∧
    (bitUnit true .rotr v c b).2 = v.getLsbD 0 ∧ (bitUnit true .rotl v c b).2 = v.getLsbD 7 ∧
    (bitUnit true .swap v c b).2 = false ∧ (bitUnit true .bitclr v c b).2 = false ∧
    (bitUnit true .bitset v c b).2 = false ∧
    ∀ op, bitUnit true .none v c b = (0#8, false) ∧ bitUnit false op v c b = (0#8, false)

/-- ROTR of ROTL, the carry threaded through, gives the byte and the carry back, and the other way round
(R119, which the spec derives from R118). -/
def Obligations.RotatesAreInverse : Prop :=
  ∀ (v : Byte) (c : Bool) (b : BitIdx),
    bitUnit true .rotr (bitUnit true .rotl v c b).1 (bitUnit true .rotl v c b).2 b = (v, c) ∧
    bitUnit true .rotl (bitUnit true .rotr v c b).1 (bitUnit true .rotr v c b).2 b = (v, c)

/-! ### The call stack -/

/-- A push writes the slot that the count names and counts up modulo 8, with no fault at the ninth (R120). -/
def Obligations.PushWritesSlotAndCounts : Prop :=
  ∀ (s : State) (v : PAddr), (s.push v).count = s.count + 1#3 ∧ (s.push v).top = v ∧
    ∀ (i : Nat) (h : i < 8), (s.push v).stack[i]'h = if i = s.count.toNat then v else s.stack[i]'h

/-- Up to depth 8 the pops give the pushed values in reverse; after nine pushes nine pops give the ninth to
the second value and then the ninth again; `n` pops leave the count at `-n` modulo 8 (R123, which the spec
derives from R120 and R121). -/
def Obligations.StackIsCircular : Prop :=
  (∀ vs s, vs.length ≤ 8 →
    popped vs.length (pushAll vs s) = vs.reverse ∧ (popAll vs.length (pushAll vs s)).count = s.count) ∧
  (∀ v vs s, vs.length = 8 →
    popped 9 (pushAll (v :: vs) s) = vs.reverse ++ vs.getLast?.toList) ∧
  ∀ n s, (popAll n s).count = s.count - BitVec.ofNat 3 n

/-- The next PC of every instruction, and what it does to the stack: only CALL writes a slot, only CALL and
the return family move the count (R29, R141; the target and the wrap are the spec's own choices D3 and D28). -/
def Obligations.NextPcAndStack : Prop :=
  ∀ i s t, exec i s = .next t →
    t.pc = nextPc i s ∧
    (match stackUse i with
      | some true => t.count = s.count + 1#3 ∧ t.stack = s.stack.set s.count.toNat (s.pc + 1#12) s.count.isLt
      | some false => t.count = s.count - 1#3 ∧ t.stack = s.stack
      | none => t.count = s.count ∧ t.stack = s.stack)

/-! ### Frames and whole-machine rules -/

/-- W changes only by an instruction whose destination is W, Z only by the opcodes that write it, C only by
those that write it (R21, R28, R131, R138, R139; the sets are the spec's own choices D6, D7, D10 and D11). -/
def Obligations.RegistersAndFlagsFrame : Prop :=
  ∀ i s t, exec i s = .next t →
    (writesW i = false → t.w = s.w) ∧ (writesZ i = false → t.z = s.z) ∧ (writesC i = false → t.c = s.c)

/-- Every file register but the one the instruction stores to reads in memory as before; a location that is
no plain memory is never kept there; PCLATH changes only by a store to the page-select register (R31, R57,
R58, R68; which opcodes store rests on the spec's own choices D10 and D11, the page-select register is the
model's log entry 6). -/
def Obligations.OnlyStoredByteChanges : Prop :=
  ∀ i s t, exec i s = .next t →
    (∀ f : FAddr, storesTo i ≠ some f → Memory.read t.file f.toNat = Memory.read s.file f.toNat) ∧
    (∀ f : FAddr, f ∈ s.ports → Memory.read t.file f.toNat = Memory.read s.file f.toNat) ∧
    (storesTo i = none ∨ storesTo i ≠ s.pageSelect → t.pclath = s.pclath)

/-- A store to plain memory is what the next read of that location answers, and every other plain location
answers as before (R56, R64; the canonical form is the model's own, log entry 2). -/
def Obligations.StoredByteReadsBack : Prop :=
  ∀ s f v, Canonical s → f ∉ s.ports →
    (s.memWrite f v).fileByte f = v ∧
    ∀ g, g ≠ f → g ∉ s.ports → (s.memWrite f v).fileByte g = s.fileByte g

/-- Where an instruction stores, its last bus event is the write of its result to the address it names, and
on plain memory that result reads back from the address (R57, R131, R136; what is stored and where rests on
the spec's own choices D8, D9, D10, D11 and D25; the canonical form is the model's own, log entry 2). -/
def Obligations.StoreReachesItsAddress : Prop :=
  ∀ i s t f, exec i s = .next t → storesTo i = some f →
    (∃ rest, t.bus = .write f (storedByte i s) :: rest) ∧
    (Canonical s → f ∉ s.ports → Memory.read t.file f.toNat = storedByte i s)

/-- The bus events of one step: the fetch at the PC, then at most one read, then at most one write, exactly
for the opcodes of R133 and R131 (R58, R145; the sets are the spec's own choices D10, D11 and D16). -/
def Obligations.StepBusEvents : Prop :=
  ∀ s t, s.pause = false → step s = .next t →
    ∃ writes reads : List BusEvent, t.bus = writes ++ reads ++ .fetch s.pc s.fetchWord :: s.bus ∧
      (match readsFrom (decode s.fetchWord) with
        | some f => reads = [.read f (s.recordFetch.fileByte f)]
        | none => reads = []) ∧
      match storesTo (decode s.fetchWord) with
        | some f => ∃ v, writes = [.write f v]
        | none => writes = []

/-- No step of any run changes program memory, the platform or the bit-test parameter, and no
instruction-level step touches the cycle-level latches (R20, R51, R67; `prog` constant is the spec's own
choice D19). -/
def Obligations.RunsKeepProgramAndPlatform : Prop :=
  ∀ s t, Reaches s t →
    t.prog = s.prog ∧ t.ports = s.ports ∧ t.pageSelect = s.pageSelect ∧ t.bitTestSkip = s.bitTestSkip ∧
    t.latch = s.latch

/-- Every step keeps both memories in canonical form, and a latch-idle state latch-idle (the form is the
model's own, log entries 1 and 2; R20 for the latches). -/
def Obligations.StepKeepsCanonicalForm : Prop :=
  ∀ s t, Canonical s → Idle s → step s = .next t → Canonical t ∧ Idle t

/-- The reset state has both memories in canonical form and its latches at reset (R36; log entries 1 and 2). -/
def Obligations.ResetIsCanonical : Prop := Canonical State.reset ∧ Idle State.reset

/-- No program can observe Z: two runs that start with different Z make the same bus events and differ in
nothing but Z (R27, R28; D26 is the spec's own choice). The two runs meet the same port answers at equal bus
histories, which is the model's log entry 5. -/
def Obligations.ZeroFlagIsUnobservable : Prop :=
  ∀ n s z t, Host.Core.run core n s = .next t →
    ∃ t', Host.Core.run core n (withZ s z) = .next t' ∧ withZ t' (State.z t) = t

/-- C is read only by RRF and RLF: any other instruction does the same with another C, which a writer of C
overwrites and any other instruction carries through (R26, R139; D7 is the spec's own choice). Both executions
meet the same port answers at equal bus histories, which is the model's log entry 5. -/
def Obligations.OnlyRotatesReadCarry : Prop :=
  ∀ i s c t, readsC i = false → exec i s = .next t →
    exec i (withC s c) = .next (withC t (if writesC i then t.c else c))

/-- Of PCLATH only bit 3 has an effect on any instruction (R31; the spec's own choice D3): with another value
that has the same bit 3, every instruction does the same, and the value stands after it unless it stores to
the page-select register, which overwrites it (R68, D34, log entry 6). Both executions meet the same port
answers at equal bus histories, which is the model's log entry 5. -/
def Obligations.OnlyPclathBitThreeMatters : Prop :=
  ∀ i s v t, v.getLsbD 3 = s.pclath.getLsbD 3 → exec i s = .next t →
    exec i { s with pclath := v } = .next { t with
      pclath := if storesTo i ≠ none ∧ storesTo i = s.pageSelect then t.pclath else v }

/-- A MOVWF to the page-select register is seen by the CALL or GOTO right after it (R68; the spec's own choice
D34, and log entry 6). -/
def Obligations.PageSelectWriteReachesJump : Prop :=
  ∀ s f a, s.pageSelect = some f → ∃ t u v, exec (.movwf f) s = .next t ∧
    exec (.goto a) t = .next u ∧ u.pc = BitVec.ofBool (s.w.getLsbD 3) ++ a ∧
    exec (.call a) t = .next v ∧ v.pc = BitVec.ofBool (s.w.getLsbD 3) ++ a

/-! ### Reset -/

/-- The state after reset: every core register, flag, slot and latch zero, every strobe deasserted (R36; the
spec's own choice D21). -/
def Obligations.ResetZeroesTheCore : Prop :=
  State.reset.w = 0#8 ∧ State.reset.pc = 0#12 ∧ State.reset.c = false ∧ State.reset.z = false ∧
  State.reset.count = 0#3 ∧ (∀ (i : Nat) (h : i < 8), State.reset.stack[i]'h = 0#12) ∧ State.reset.pause = false ∧
  State.reset.latch.phase = 0#2 ∧ State.reset.latch.ir = 0x0000#14 ∧ State.reset.latch.lhs = 0#8 ∧
  State.reset.latch.rhs = 0#8 ∧ State.reset.latch.negRhs = 0#8 ∧ State.reset.latch.targetBit = 0#3 ∧
  State.reset.latch.invert = false ∧ State.reset.latch.skip = false ∧ State.reset.latch.insnRead = false ∧
  State.reset.latch.periphRead = false ∧ State.reset.latch.periphWrite = false ∧
  State.reset.latch.push = false ∧ State.reset.latch.pop = false ∧ State.reset.latch.periphAddr = 0#7 ∧
  State.reset.latch.writeData = 0#8

/-- The external reset brings any state's core to its reset values and touches neither program memory nor the
file registers nor anything else outside the core (R310, R311; the spec's own choice D21). -/
def Obligations.ExternalResetSparesTheEnvironment : Prop :=
  ∀ s, clockWithReset true (Vector.replicate 8 0#12) s = { State.reset with
    prog := s.prog, file := s.file, ports := s.ports, pclath := s.pclath, pageSelect := s.pageSelect
    bitTestSkip := s.bitTestSkip, bus := s.bus }

/-! ### The cycle schedule -/

/-- The phase counter free-runs in every state, and four clocks from phase 0 make exactly one fetch, at the PC
of the window (R34, R314). -/
def Obligations.PhaseCounterFreeRuns : Prop :=
  (∀ s, (clock s).latch.phase = s.latch.phase + 1#2) ∧
  ∀ s, s.latch.phase = 0#2 →
    ((window s).bus.filter fun e => e matches .fetch _ _) =
      .fetch s.pc s.fetchWord :: s.bus.filter fun e => e matches .fetch _ _

/-- Phase 0 asserts the instruction read strobe, leaves the PC, and commits the instruction in `IR`: the result
on its latches to W or as a peripheral write at the low 7 bits of `IR`, Z from the skip latch, C from the
unit's carry output before the invert, and the pause flag, each exactly for the opcodes that write it (R315;
which opcodes these are rests on the spec's own choices D6, D7, D10, D11 and D12, the result's source on D8
and D9; when the internal latches change is log entry 7). -/
def Obligations.PhaseZeroCommitsAndFetches : Prop :=
  ∀ s, s.latch.phase = 0#2 →
    (clock s).latch.insnRead = true ∧ (clock s).pc = s.pc ∧
    (clock s).w = (if writesW (decode s.latch.ir) then s.latchedResult else s.w) ∧
    (clock s).z = (if writesZ (decode s.latch.ir) then s.latch.skip else s.z) ∧
    (clock s).c = (if writesC (decode s.latch.ir) then s.latchedCarry else s.c) ∧
    (∀ f d, decode s.latch.ir = .decfsz f d ∨ decode s.latch.ir = .incfsz f d → (clock s).pause = s.latch.skip) ∧
    (∀ f b, decode s.latch.ir = .btfsc f b →
      (clock s).pause = (s.bitTestSkip && !s.latch.rhs.getLsbD b.toNat)) ∧
    (∀ f b, decode s.latch.ir = .btfss f b →
      (clock s).pause = (s.bitTestSkip && s.latch.rhs.getLsbD b.toNat)) ∧
    (maySkip true (decode s.latch.ir) = false → (clock s).pause = s.pause) ∧
    match storesTo (decode s.latch.ir) with
      | some f => f = fieldF s.latch.ir ∧ (clock s).latch.periphWrite = true ∧ (clock s).latch.periphAddr = f ∧
          (clock s).latch.writeData = s.latchedResult ∧ (clock s).bus = .write f s.latchedResult :: s.bus
      | none => (clock s).latch.periphWrite = false ∧ (clock s).bus = s.bus

/-- Phase 1 forces NOP and clears pause when paused, else latches the word and its low 7 bits as the
peripheral address; it finalises C by the invert flag and ends the write strobe, and phases 2 and 3 leave C
alone (R316). -/
def Obligations.PhaseOneLatchesInstruction : Prop :=
  (∀ s, s.latch.phase = 1#2 →
    (s.pause = true → (clock s).latch.ir = 0x0000#14 ∧ (clock s).pause = false) ∧
    (s.pause = false →
      (clock s).latch.ir = Memory.read s.prog s.pc.toNat ∧
      (clock s).latch.periphAddr = (Memory.read s.prog s.pc.toNat).extractLsb' 0 7) ∧
    (clock s).c = (s.c ^^ s.latch.invert) ∧ (clock s).latch.periphWrite = false) ∧
  ∀ s, s.latch.phase = 2#2 ∨ s.latch.phase = 3#2 → (clock s).c = s.c

/-- Phase 2 asserts the peripheral read strobe if the instruction reads a file register, pushes PC + 1 on
CALL, pops into the PC on a return, takes `{PCLATH[4:3], IR[10:0]}` truncated to 12 bits on CALL and GOTO, and
otherwise advances the PC (R317; which opcodes read a file register, R133, is the spec's own choice D16, and
the truncation D3; log entry 12). -/
def Obligations.PhaseTwoMovesPcAndStack : Prop :=
  ∀ s, s.latch.phase = 2#2 →
    (clock s).latch.periphRead = (readsFrom (decode s.latch.ir)).isSome ∧
    (clock s).pc = nextPc (decode s.latch.ir) s ∧
    (∀ a, decode s.latch.ir = .call a ∨ decode s.latch.ir = .goto a →
      (clock s).pc = (s.pclath.extractLsb' 3 2 ++ s.latch.ir.extractLsb' 0 11).setWidth 12) ∧
    match stackUse (decode s.latch.ir) with
      | some true => (clock s).latch.push = true ∧ (clock s).count = s.count + 1#3 ∧
          (clock s).stack = s.stack.set s.count.toNat (s.pc + 1#12) s.count.isLt
      | some false => (clock s).latch.pop = true ∧ (clock s).count = s.count - 1#3 ∧ (clock s).stack = s.stack
      | none => (clock s).latch.push = false ∧ (clock s).latch.pop = false ∧ (clock s).count = s.count ∧
          (clock s).stack = s.stack

/-- Phase 3 ends the stack strobes and captures the byte read, as one read event, exactly when the read
strobe is up (R318, R321; which opcodes read is the spec's own choice D16, and the clock in which the read
event is logged is the model's log entry 7). -/
def Obligations.PhaseThreeCapturesReadData : Prop :=
  ∀ s, s.latch.phase = 3#2 →
    (clock s).latch.push = false ∧ (clock s).latch.pop = false ∧
    (s.latch.periphRead = true → (clock s).bus = .read s.latch.periphAddr (s.fileByte s.latch.periphAddr) :: s.bus ∧
      ((readsFrom (decode s.latch.ir)).isSome = true →
        (clock s).latch.rhs = s.fileByte s.latch.periphAddr)) ∧
    (s.latch.periphRead = false → (clock s).bus = s.bus)

/-- The push and pop strobes are never up together: every clock keeps it so, and they are so at reset (R122,
which rests on R141). -/
def Obligations.PushAndPopNeverTogether : Prop :=
  (∀ s, (s.latch.push && s.latch.pop) = false → ((clock s).latch.push && (clock s).latch.pop) = false) ∧
  (State.reset.latch.push && State.reset.latch.pop) = false

/-- The cycle-level machine refines the instruction-level one: from any state at phase 0, `n` windows of four
clocks, once settled, are `n` instruction steps of the settled state; a state with its latches at reset is
already settled (R8, R312, R324; D1 and D30 are the spec's own choices, and log entry 7 the model's). -/
def Obligations.WindowsRefineSteps : Prop :=
  (∀ n s, s.latch.phase = 0#2 → Host.Core.run core n s.settle = .next (windows n s).settle) ∧
  ∀ s, Idle s → s.settle = s
end

