-- ==== Sys2Proof/Laws/Memory.lean ====
section
/-! SUPPORT. The laws of memory: a write leaves every other address alone, a canonical memory reads back
what was written, and a write keeps the canonical form. -/

namespace Sys2Proof.Machine

variable {n : Nat}

@[simp] theorem Memory.read_nil (a : Nat) : Memory.read ([] : List (Nat × BitVec n)) a = 0#n := rfl

theorem Memory.read_cons (k : Nat) (v : BitVec n) (m : List (Nat × BitVec n)) (a : Nat) :
    Memory.read ((k, v) :: m) a = if k = a then v else Memory.read m a := rfl

/-- Every address of a canonical memory lies above a bound that its first address lies above. -/
theorem Memory.read_of_below {size a : Nat} {m : List (Nat × BitVec n)} (h : Memory.wf size m = true)
    (hm : (m.head?.all fun c => decide (a < c.1)) = true) : Memory.read m a = Memory.unlisted := by
  induction m with
  | nil => rfl
  | cons c m ih =>
    obtain ⟨k, v⟩ := c
    simp only [Memory.wf, Bool.and_eq_true, decide_eq_true_eq, List.head?_cons, Option.all_some] at h hm
    rw [Memory.read_cons, if_neg (by omega)]
    refine ih h.2 ?_
    cases m with
    | nil => rfl
    | cons c' m =>
      have := h.1.2
      simp only [List.head?_cons, Option.all_some, decide_eq_true_eq] at this ⊢
      omega

theorem Memory.read_smartCons_self (a : Nat) (v : BitVec n) {m : List (Nat × BitVec n)}
    (hm : Memory.read m a = Memory.unlisted) : Memory.read (Memory.cons a v m) a = v := by
  unfold Memory.cons
  split
  · simp_all
  · simp [Memory.read_cons]

theorem Memory.read_smartCons_other {a b : Nat} (v : BitVec n) (m : List (Nat × BitVec n)) (h : b ≠ a) :
    Memory.read (Memory.cons a v m) b = Memory.read m b := by
  unfold Memory.cons
  split
  · rfl
  · rw [Memory.read_cons, if_neg (Ne.symm h)]

/-- A write leaves every other address alone, whatever the memory's form. -/
theorem Memory.read_write_other {a b : Nat} (v : BitVec n) (m : List (Nat × BitVec n)) (h : b ≠ a) :
    Memory.read (Memory.write m a v) b = Memory.read m b := by
  induction m with
  | nil => exact Memory.read_smartCons_other v [] h
  | cons c m ih =>
    obtain ⟨k, x⟩ := c
    unfold Memory.write
    split
    · exact Memory.read_smartCons_other v _ h
    · split
      · subst k
        rw [Memory.read_smartCons_other v m h, Memory.read_cons, if_neg (Ne.symm h)]
      · rw [Memory.read_cons, Memory.read_cons, ih]

/-- A canonical memory reads back what was written. -/
theorem Memory.read_write_self {size a : Nat} (v : BitVec n) {m : List (Nat × BitVec n)}
    (h : Memory.wf size m = true) : Memory.read (Memory.write m a v) a = v := by
  induction m with
  | nil => exact Memory.read_smartCons_self a v rfl
  | cons c m ih =>
    obtain ⟨k, x⟩ := c
    have h' := h
    simp only [Memory.wf, Bool.and_eq_true, decide_eq_true_eq] at h'
    unfold Memory.write
    split
    · next hlt => exact Memory.read_smartCons_self a v (Memory.read_of_below h (by simpa using hlt))
    · split
      · next he =>
        subst he
        exact Memory.read_smartCons_self a v (Memory.read_of_below h'.2 h'.1.2)
      · next hne => rw [Memory.read_cons, if_neg (Ne.symm hne), ih h'.2]

theorem Memory.smartCons_wf {size a : Nat} (v : BitVec n) {m : List (Nat × BitVec n)} (ha : a < size)
    (h : Memory.wf size m = true) (hm : (m.head?.all fun c => decide (a < c.1)) = true) :
    Memory.wf size (Memory.cons a v m) = true := by
  unfold Memory.cons
  split
  · exact h
  · next hv => simp [Memory.wf, ha, hv, hm, h]

/-- The first address after a write is the written one or the first one before. -/
theorem Memory.head_write {b a : Nat} (v : BitVec n) {m : List (Nat × BitVec n)} (hb : b < a)
    (hm : (m.head?.all fun c => decide (b < c.1)) = true) {size : Nat} (h : Memory.wf size m = true) :
    ((Memory.write m a v).head?.all fun c => decide (b < c.1)) = true := by
  cases m with
  | nil => unfold Memory.write Memory.cons; split <;> simp [hb]
  | cons c m =>
    obtain ⟨k, x⟩ := c
    simp only [Memory.wf, Bool.and_eq_true, decide_eq_true_eq, List.head?_cons, Option.all_some] at h hm
    unfold Memory.write Memory.cons
    split
    · split <;> simp [hb, hm]
    · split
      · split
        · cases m with
          | nil => rfl
          | cons c' m =>
            have := h.1.2
            simp only [List.head?_cons, Option.all_some, decide_eq_true_eq] at this ⊢
            omega
        · simp [hb]
      · simp [hm]

/-- A write at an address of the memory keeps the canonical form. -/
theorem Memory.write_wf {size a : Nat} (v : BitVec n) {m : List (Nat × BitVec n)} (ha : a < size)
    (h : Memory.wf size m = true) : Memory.wf size (Memory.write m a v) = true := by
  induction m with
  | nil => exact Memory.smartCons_wf v ha h rfl
  | cons c m ih =>
    obtain ⟨k, x⟩ := c
    have h' := h
    simp only [Memory.wf, Bool.and_eq_true, decide_eq_true_eq] at h'
    unfold Memory.write
    split
    · next hlt => exact Memory.smartCons_wf v ha h (by simpa using hlt)
    · split
      · next he =>
        subst he
        exact Memory.smartCons_wf v ha h'.2 h'.1.2
      · next hnlt hne =>
        simp [Memory.wf, h'.1.1.1, h'.1.1.2, ih h'.2, Memory.head_write v (show k < a by omega) h'.1.2 h'.2]

/-- A peripheral write keeps both memories canonical. -/
theorem State.memWrite_memoriesWf {s : State} (f : FAddr) (v : Byte) (h : s.memoriesWf = true) :
    (s.memWrite f v).memoriesWf = true := by
  simp only [State.memoriesWf, Bool.and_eq_true] at h ⊢
  refine ⟨h.1, ?_⟩
  simp only [State.memWrite]
  split
  · exact h.2
  · exact Memory.write_wf v f.isLt h.2

theorem imageWords_wf {img : Image} (h : img.addressesInRange = true) : Memory.wf progSize (imageWords img) = true := by
  suffices H : ∀ m : List (Nat × BitVec 14), Memory.wf progSize m = true →
      Memory.wf progSize (img.foldl (fun m c => Memory.write m c.1 (BitVec.ofNat 14 c.2)) m) = true from H [] rfl
  induction img with
  | nil => exact fun _ hm => hm
  | cons c img ih =>
    simp only [Image.addressesInRange, List.all_cons, Bool.and_eq_true, decide_eq_true_eq] at h
    exact fun m hm => ih h.2 _ (Memory.write_wf _ h.1 hm)

/-- A loaded program is a canonical memory. -/
theorem State.loadImage_memoriesWf {s t : State} {img : Image} (h : s.loadImage img = some t)
    (hs : s.memoriesWf = true) : t.memoriesWf = true := by
  unfold State.loadImage at h
  split at h
  · next hw =>
    cases h
    simp only [Image.wellFormed, Bool.and_eq_true] at hw
    simp only [State.memoriesWf, Bool.and_eq_true] at hs ⊢
    exact ⟨imageWords_wf hw.1.1, hs.2⟩
  · cases h

end Sys2Proof.Machine
end

