-- ==== Sys2Proof/Laws/State.lean ====
section
/-! SUPPORT. For each named operation on the state, what it leaves in each field. -/

namespace Sys2Proof.Machine

variable (s : State)

/-! ### `recordFetch` -/

@[simp] theorem State.recordFetch_w : (s.recordFetch).w = s.w := rfl
@[simp] theorem State.recordFetch_pc : (s.recordFetch).pc = s.pc := rfl
@[simp] theorem State.recordFetch_c : (s.recordFetch).c = s.c := rfl
@[simp] theorem State.recordFetch_z : (s.recordFetch).z = s.z := rfl
@[simp] theorem State.recordFetch_stack : (s.recordFetch).stack = s.stack := rfl
@[simp] theorem State.recordFetch_count : (s.recordFetch).count = s.count := rfl
@[simp] theorem State.recordFetch_pause : (s.recordFetch).pause = s.pause := rfl
@[simp] theorem State.recordFetch_latch : (s.recordFetch).latch = s.latch := rfl
@[simp] theorem State.recordFetch_prog : (s.recordFetch).prog = s.prog := rfl
@[simp] theorem State.recordFetch_file : (s.recordFetch).file = s.file := rfl
@[simp] theorem State.recordFetch_ports : (s.recordFetch).ports = s.ports := rfl
@[simp] theorem State.recordFetch_pclath : (s.recordFetch).pclath = s.pclath := rfl
@[simp] theorem State.recordFetch_pageSelect : (s.recordFetch).pageSelect = s.pageSelect := rfl
@[simp] theorem State.recordFetch_bitTestSkip : (s.recordFetch).bitTestSkip = s.bitTestSkip := rfl
@[simp] theorem State.recordFetch_bus : (s.recordFetch).bus = .fetch s.pc s.fetchWord :: s.bus := rfl

/-! ### `recordRead` -/

@[simp] theorem State.recordRead_w (f : FAddr) : (s.recordRead f).w = s.w := rfl
@[simp] theorem State.recordRead_pc (f : FAddr) : (s.recordRead f).pc = s.pc := rfl
@[simp] theorem State.recordRead_c (f : FAddr) : (s.recordRead f).c = s.c := rfl
@[simp] theorem State.recordRead_z (f : FAddr) : (s.recordRead f).z = s.z := rfl
@[simp] theorem State.recordRead_stack (f : FAddr) : (s.recordRead f).stack = s.stack := rfl
@[simp] theorem State.recordRead_count (f : FAddr) : (s.recordRead f).count = s.count := rfl
@[simp] theorem State.recordRead_pause (f : FAddr) : (s.recordRead f).pause = s.pause := rfl
@[simp] theorem State.recordRead_latch (f : FAddr) : (s.recordRead f).latch = s.latch := rfl
@[simp] theorem State.recordRead_prog (f : FAddr) : (s.recordRead f).prog = s.prog := rfl
@[simp] theorem State.recordRead_file (f : FAddr) : (s.recordRead f).file = s.file := rfl
@[simp] theorem State.recordRead_ports (f : FAddr) : (s.recordRead f).ports = s.ports := rfl
@[simp] theorem State.recordRead_pclath (f : FAddr) : (s.recordRead f).pclath = s.pclath := rfl
@[simp] theorem State.recordRead_pageSelect (f : FAddr) : (s.recordRead f).pageSelect = s.pageSelect := rfl
@[simp] theorem State.recordRead_bitTestSkip (f : FAddr) : (s.recordRead f).bitTestSkip = s.bitTestSkip := rfl
@[simp] theorem State.recordRead_bus (f : FAddr) : (s.recordRead f).bus = .read f (s.fileByte f) :: s.bus := rfl

/-! ### `memWrite` -/

@[simp] theorem State.memWrite_w (f : FAddr) (v : Byte) : (s.memWrite f v).w = s.w := rfl
@[simp] theorem State.memWrite_pc (f : FAddr) (v : Byte) : (s.memWrite f v).pc = s.pc := rfl
@[simp] theorem State.memWrite_c (f : FAddr) (v : Byte) : (s.memWrite f v).c = s.c := rfl
@[simp] theorem State.memWrite_z (f : FAddr) (v : Byte) : (s.memWrite f v).z = s.z := rfl
@[simp] theorem State.memWrite_stack (f : FAddr) (v : Byte) : (s.memWrite f v).stack = s.stack := rfl
@[simp] theorem State.memWrite_count (f : FAddr) (v : Byte) : (s.memWrite f v).count = s.count := rfl
@[simp] theorem State.memWrite_pause (f : FAddr) (v : Byte) : (s.memWrite f v).pause = s.pause := rfl
@[simp] theorem State.memWrite_latch (f : FAddr) (v : Byte) : (s.memWrite f v).latch = s.latch := rfl
@[simp] theorem State.memWrite_prog (f : FAddr) (v : Byte) : (s.memWrite f v).prog = s.prog := rfl
@[simp] theorem State.memWrite_file (f : FAddr) (v : Byte) : (s.memWrite f v).file = if s.ports.contains f then s.file else Memory.write s.file f.toNat v := rfl
@[simp] theorem State.memWrite_ports (f : FAddr) (v : Byte) : (s.memWrite f v).ports = s.ports := rfl
@[simp] theorem State.memWrite_pclath (f : FAddr) (v : Byte) : (s.memWrite f v).pclath = if s.pageSelect = some f then v else s.pclath := rfl
@[simp] theorem State.memWrite_pageSelect (f : FAddr) (v : Byte) : (s.memWrite f v).pageSelect = s.pageSelect := rfl
@[simp] theorem State.memWrite_bitTestSkip (f : FAddr) (v : Byte) : (s.memWrite f v).bitTestSkip = s.bitTestSkip := rfl
@[simp] theorem State.memWrite_bus (f : FAddr) (v : Byte) : (s.memWrite f v).bus = .write f v :: s.bus := rfl

/-! ### `push` -/

@[simp] theorem State.push_w (v : PAddr) : (s.push v).w = s.w := rfl
@[simp] theorem State.push_pc (v : PAddr) : (s.push v).pc = s.pc := rfl
@[simp] theorem State.push_c (v : PAddr) : (s.push v).c = s.c := rfl
@[simp] theorem State.push_z (v : PAddr) : (s.push v).z = s.z := rfl
@[simp] theorem State.push_stack (v : PAddr) : (s.push v).stack = s.stack.set s.count.toNat v s.count.isLt := rfl
@[simp] theorem State.push_count (v : PAddr) : (s.push v).count = s.count + 1#3 := rfl
@[simp] theorem State.push_pause (v : PAddr) : (s.push v).pause = s.pause := rfl
@[simp] theorem State.push_latch (v : PAddr) : (s.push v).latch = s.latch := rfl
@[simp] theorem State.push_prog (v : PAddr) : (s.push v).prog = s.prog := rfl
@[simp] theorem State.push_file (v : PAddr) : (s.push v).file = s.file := rfl
@[simp] theorem State.push_ports (v : PAddr) : (s.push v).ports = s.ports := rfl
@[simp] theorem State.push_pclath (v : PAddr) : (s.push v).pclath = s.pclath := rfl
@[simp] theorem State.push_pageSelect (v : PAddr) : (s.push v).pageSelect = s.pageSelect := rfl
@[simp] theorem State.push_bitTestSkip (v : PAddr) : (s.push v).bitTestSkip = s.bitTestSkip := rfl
@[simp] theorem State.push_bus (v : PAddr) : (s.push v).bus = s.bus := rfl

/-! ### `pop` -/

@[simp] theorem State.pop_w : (s.pop).w = s.w := rfl
@[simp] theorem State.pop_pc : (s.pop).pc = s.pc := rfl
@[simp] theorem State.pop_c : (s.pop).c = s.c := rfl
@[simp] theorem State.pop_z : (s.pop).z = s.z := rfl
@[simp] theorem State.pop_stack : (s.pop).stack = s.stack := rfl
@[simp] theorem State.pop_count : (s.pop).count = s.count - 1#3 := rfl
@[simp] theorem State.pop_pause : (s.pop).pause = s.pause := rfl
@[simp] theorem State.pop_latch : (s.pop).latch = s.latch := rfl
@[simp] theorem State.pop_prog : (s.pop).prog = s.prog := rfl
@[simp] theorem State.pop_file : (s.pop).file = s.file := rfl
@[simp] theorem State.pop_ports : (s.pop).ports = s.ports := rfl
@[simp] theorem State.pop_pclath : (s.pop).pclath = s.pclath := rfl
@[simp] theorem State.pop_pageSelect : (s.pop).pageSelect = s.pageSelect := rfl
@[simp] theorem State.pop_bitTestSkip : (s.pop).bitTestSkip = s.bitTestSkip := rfl
@[simp] theorem State.pop_bus : (s.pop).bus = s.bus := rfl

/-! ### `advance` -/

@[simp] theorem State.advance_w (skip : Bool) : (s.advance skip).w = s.w := rfl
@[simp] theorem State.advance_pc (skip : Bool) : (s.advance skip).pc = s.pc + 1#12 := rfl
@[simp] theorem State.advance_c (skip : Bool) : (s.advance skip).c = s.c := rfl
@[simp] theorem State.advance_z (skip : Bool) : (s.advance skip).z = s.z := rfl
@[simp] theorem State.advance_stack (skip : Bool) : (s.advance skip).stack = s.stack := rfl
@[simp] theorem State.advance_count (skip : Bool) : (s.advance skip).count = s.count := rfl
@[simp] theorem State.advance_pause (skip : Bool) : (s.advance skip).pause = skip := rfl
@[simp] theorem State.advance_latch (skip : Bool) : (s.advance skip).latch = s.latch := rfl
@[simp] theorem State.advance_prog (skip : Bool) : (s.advance skip).prog = s.prog := rfl
@[simp] theorem State.advance_file (skip : Bool) : (s.advance skip).file = s.file := rfl
@[simp] theorem State.advance_ports (skip : Bool) : (s.advance skip).ports = s.ports := rfl
@[simp] theorem State.advance_pclath (skip : Bool) : (s.advance skip).pclath = s.pclath := rfl
@[simp] theorem State.advance_pageSelect (skip : Bool) : (s.advance skip).pageSelect = s.pageSelect := rfl
@[simp] theorem State.advance_bitTestSkip (skip : Bool) : (s.advance skip).bitTestSkip = s.bitTestSkip := rfl
@[simp] theorem State.advance_bus (skip : Bool) : (s.advance skip).bus = s.bus := rfl

/-! ### `jump` -/

@[simp] theorem State.jump_w (a : PAddr) : (s.jump a).w = s.w := rfl
@[simp] theorem State.jump_pc (a : PAddr) : (s.jump a).pc = a := rfl
@[simp] theorem State.jump_c (a : PAddr) : (s.jump a).c = s.c := rfl
@[simp] theorem State.jump_z (a : PAddr) : (s.jump a).z = s.z := rfl
@[simp] theorem State.jump_stack (a : PAddr) : (s.jump a).stack = s.stack := rfl
@[simp] theorem State.jump_count (a : PAddr) : (s.jump a).count = s.count := rfl
@[simp] theorem State.jump_pause (a : PAddr) : (s.jump a).pause = false := rfl
@[simp] theorem State.jump_latch (a : PAddr) : (s.jump a).latch = s.latch := rfl
@[simp] theorem State.jump_prog (a : PAddr) : (s.jump a).prog = s.prog := rfl
@[simp] theorem State.jump_file (a : PAddr) : (s.jump a).file = s.file := rfl
@[simp] theorem State.jump_ports (a : PAddr) : (s.jump a).ports = s.ports := rfl
@[simp] theorem State.jump_pclath (a : PAddr) : (s.jump a).pclath = s.pclath := rfl
@[simp] theorem State.jump_pageSelect (a : PAddr) : (s.jump a).pageSelect = s.pageSelect := rfl
@[simp] theorem State.jump_bitTestSkip (a : PAddr) : (s.jump a).bitTestSkip = s.bitTestSkip := rfl
@[simp] theorem State.jump_bus (a : PAddr) : (s.jump a).bus = s.bus := rfl

/-! ### `setFlags` -/

@[simp] theorem State.setFlags_w (r : Result) : (s.setFlags r).w = s.w := rfl
@[simp] theorem State.setFlags_pc (r : Result) : (s.setFlags r).pc = s.pc := rfl
@[simp] theorem State.setFlags_c (r : Result) : (s.setFlags r).c = r.c.getD s.c := rfl
@[simp] theorem State.setFlags_z (r : Result) : (s.setFlags r).z = r.z.getD s.z := rfl
@[simp] theorem State.setFlags_stack (r : Result) : (s.setFlags r).stack = s.stack := rfl
@[simp] theorem State.setFlags_count (r : Result) : (s.setFlags r).count = s.count := rfl
@[simp] theorem State.setFlags_pause (r : Result) : (s.setFlags r).pause = s.pause := rfl
@[simp] theorem State.setFlags_latch (r : Result) : (s.setFlags r).latch = s.latch := rfl
@[simp] theorem State.setFlags_prog (r : Result) : (s.setFlags r).prog = s.prog := rfl
@[simp] theorem State.setFlags_file (r : Result) : (s.setFlags r).file = s.file := rfl
@[simp] theorem State.setFlags_ports (r : Result) : (s.setFlags r).ports = s.ports := rfl
@[simp] theorem State.setFlags_pclath (r : Result) : (s.setFlags r).pclath = s.pclath := rfl
@[simp] theorem State.setFlags_pageSelect (r : Result) : (s.setFlags r).pageSelect = s.pageSelect := rfl
@[simp] theorem State.setFlags_bitTestSkip (r : Result) : (s.setFlags r).bitTestSkip = s.bitTestSkip := rfl
@[simp] theorem State.setFlags_bus (r : Result) : (s.setFlags r).bus = s.bus := rfl

/-! ### `writeDest` -/

@[simp] theorem State.writeDest_w_eq (f : FAddr) (v : Byte) : s.writeDest .w f v = { s with w := v } := rfl
@[simp] theorem State.writeDest_f_eq (f : FAddr) (v : Byte) : s.writeDest .f f v = s.memWrite f v := rfl
@[simp] theorem State.writeDest_pc (d : Dest) (f : FAddr) (v : Byte) : (s.writeDest d f v).pc = s.pc := by cases d <;> rfl
@[simp] theorem State.writeDest_c (d : Dest) (f : FAddr) (v : Byte) : (s.writeDest d f v).c = s.c := by cases d <;> rfl
@[simp] theorem State.writeDest_z (d : Dest) (f : FAddr) (v : Byte) : (s.writeDest d f v).z = s.z := by cases d <;> rfl
@[simp] theorem State.writeDest_stack (d : Dest) (f : FAddr) (v : Byte) : (s.writeDest d f v).stack = s.stack := by cases d <;> rfl
@[simp] theorem State.writeDest_count (d : Dest) (f : FAddr) (v : Byte) : (s.writeDest d f v).count = s.count := by cases d <;> rfl
@[simp] theorem State.writeDest_pause (d : Dest) (f : FAddr) (v : Byte) : (s.writeDest d f v).pause = s.pause := by cases d <;> rfl
@[simp] theorem State.writeDest_latch (d : Dest) (f : FAddr) (v : Byte) : (s.writeDest d f v).latch = s.latch := by cases d <;> rfl
@[simp] theorem State.writeDest_prog (d : Dest) (f : FAddr) (v : Byte) : (s.writeDest d f v).prog = s.prog := by cases d <;> rfl
@[simp] theorem State.writeDest_ports (d : Dest) (f : FAddr) (v : Byte) : (s.writeDest d f v).ports = s.ports := by cases d <;> rfl
@[simp] theorem State.writeDest_pageSelect (d : Dest) (f : FAddr) (v : Byte) : (s.writeDest d f v).pageSelect = s.pageSelect := by cases d <;> rfl
@[simp] theorem State.writeDest_bitTestSkip (d : Dest) (f : FAddr) (v : Byte) : (s.writeDest d f v).bitTestSkip = s.bitTestSkip := by cases d <;> rfl

end Sys2Proof.Machine
end

