-- ==== Sys2Proof/Laws/Operands.lean ====
section
/-! SUPPORT. Everything each shared operand form can do: it always answers a next state, and this is it. -/

namespace Sys2Proof.Machine

theorem fileOp_w (f : FAddr) (result : Byte → Result) (s : State) :
    fileOp f .w result s = .next { s with
      w := (result (s.fileByte f)).value
      z := (result (s.fileByte f)).z.getD s.z
      c := (result (s.fileByte f)).c.getD s.c
      pause := (result (s.fileByte f)).skip
      pc := s.pc + 1#12
      bus := .read f (s.fileByte f) :: s.bus } := rfl

theorem fileOp_f (f : FAddr) (result : Byte → Result) (s : State) :
    fileOp f .f result s = .next { s with
      z := (result (s.fileByte f)).z.getD s.z
      c := (result (s.fileByte f)).c.getD s.c
      pause := (result (s.fileByte f)).skip
      pc := s.pc + 1#12
      bus := .write f (result (s.fileByte f)).value :: .read f (s.fileByte f) :: s.bus
      file := if s.ports.contains f then s.file else Memory.write s.file f.toNat (result (s.fileByte f)).value
      pclath := if s.pageSelect = some f then (result (s.fileByte f)).value else s.pclath } := rfl

theorem storeOp_next (f : FAddr) (r : Result) (s : State) :
    storeOp f r s = .next { s with
      z := r.z.getD s.z
      c := r.c.getD s.c
      pause := r.skip
      pc := s.pc + 1#12
      bus := .write f r.value :: s.bus
      file := if s.ports.contains f then s.file else Memory.write s.file f.toNat r.value
      pclath := if s.pageSelect = some f then r.value else s.pclath } := rfl

theorem accumulatorOp_next (r : Result) (s : State) :
    accumulatorOp r s = .next { s with
      w := r.value
      z := r.z.getD s.z
      c := r.c.getD s.c
      pause := r.skip
      pc := s.pc + 1#12 } := rfl

theorem bitTestOp_next (f : FAddr) (b : BitIdx) (skipsOn : Bool) (s : State) :
    bitTestOp f b skipsOn s = .next { s with
      pause := s.bitTestSkip && (s.fileByte f).getLsbD b.toNat == skipsOn
      pc := s.pc + 1#12
      bus := .read f (s.fileByte f) :: s.bus } := rfl

theorem returnOp_next (s : State) :
    returnOp s = .next { s with pc := s.top, count := s.count - 1#3, pause := false } := rfl

theorem noOp_next (s : State) : noOp s = .next { s with pc := s.pc + 1#12, pause := false } := rfl

/-- A file operation keeps both memories canonical. -/
theorem fileOp_memoriesWf {f : FAddr} {d : Dest} {result : Byte → Result} {s t : State}
    (h : fileOp f d result s = .next t) (hs : s.memoriesWf = true) : t.memoriesWf = true := by
  cases d with
  | w => cases h; exact hs
  | f => cases h; exact State.memWrite_memoriesWf (s := (s.recordRead f).setFlags _) f _ hs

/-- A store keeps both memories canonical. -/
theorem storeOp_memoriesWf {f : FAddr} {r : Result} {s t : State} (h : storeOp f r s = .next t)
    (hs : s.memoriesWf = true) : t.memoriesWf = true := by
  cases h
  exact State.memWrite_memoriesWf (s := s.setFlags r) f _ hs

end Sys2Proof.Machine
end

