-- ==== Sys2Proof/Laws/PerInstr.lean ====
section
/-! SUPPORT. Per instruction: its word is accepted by a row of the decode table that builds the instruction
back (30_encoding.md R83), from which the round trip follows once the rows are known to be disjoint. -/

namespace Sys2Proof.Laws

theorem extract_low {n m : Nat} (x : BitVec n) (y : BitVec m) : (x ++ y).extractLsb' 0 m = y := by
  ext i hi
  simp [BitVec.getLsbD_append, hi]

theorem extract_middle {n m l : Nat} (x : BitVec n) (y : BitVec m) (z : BitVec l) :
    (x ++ y ++ z).extractLsb' l m = y := by
  ext i hi
  simp [BitVec.getLsbD_append, hi]

theorem masked_append {n m : Nat} {x p : BitVec n} (y : BitVec m) (h : x &&& p = x) :
    (x ++ y) &&& (p ++ 0#m) = x ++ 0#m := by
  rw [BitVec.and_append, h, BitVec.and_zero]

theorem masked_append₂ {n m l : Nat} {x p : BitVec n} (y : BitVec m) (z : BitVec l) (h : x &&& p = x) :
    (x ++ y ++ z) &&& (p ++ 0#m ++ 0#l) = x ++ 0#m ++ 0#l :=
  by rw [BitVec.and_append, masked_append y h, BitVec.and_zero]

@[simp] theorem fieldF_append (x : BitVec 7) (f : FAddr) : fieldF (x ++ f) = f := extract_low x f

theorem fieldF_append_d (x : BitVec 6) (d : Dest) (f : FAddr) : fieldF (x ++ d.bit ++ f) = f :=
  extract_low (x ++ d.bit) f

@[simp] theorem fieldD_append (x : BitVec 6) (d : Dest) (f : FAddr) : fieldD (x ++ d.bit ++ f) = d := by
  have h : BitVec.getLsbD (w := 14) (x ++ d.bit ++ f) 7 = d.bit.getLsbD 0 := by
    show BitVec.getLsbD (x ++ d.bit ++ f) 7 = _
    rw [BitVec.getLsbD_append, BitVec.getLsbD_append]
    rfl
  unfold fieldD
  rw [h]
  cases d <;> rfl

theorem fieldF_append_b (x : BitVec 4) (b : BitIdx) (f : FAddr) : fieldF (x ++ b ++ f) = f :=
  extract_low (x ++ b) f

@[simp] theorem fieldB_append (x : BitVec 4) (b : BitIdx) (f : FAddr) : fieldB (x ++ b ++ f) = b :=
  extract_middle x b f

@[simp] theorem fieldA_append (x : BitVec 3) (a : Target) : fieldA (x ++ a) = a := extract_low x a

@[simp] theorem fieldK_append (x : BitVec 6) (k : Byte) : fieldK (x ++ k) = k := extract_low x k

namespace EncodesInTable

/-- The instruction's word is accepted by a row of the table, and that row builds the instruction. -/
def Statement (i : Instr) : Prop :=
  ∃ r ∈ decodeTable, r.accepts (encode i) = true ∧ r.build (encode i) = i

theorem nop : Statement .nop :=
  ⟨fixedRows[0], List.mem_append_left _ (List.mem_append_left _ (List.getElem_mem (l := fixedRows) _)), rfl, rfl⟩

theorem ret : Statement .ret :=
  ⟨fixedRows[1], List.mem_append_left _ (List.mem_append_left _ (List.getElem_mem (l := fixedRows) _)), rfl, rfl⟩

theorem retfie : Statement .retfie :=
  ⟨fixedRows[2], List.mem_append_left _ (List.mem_append_left _ (List.getElem_mem (l := fixedRows) _)), rfl, rfl⟩

theorem sleep : Statement .sleep :=
  ⟨fixedRows[3], List.mem_append_left _ (List.mem_append_left _ (List.getElem_mem (l := fixedRows) _)), rfl, rfl⟩

theorem movwf (f : FAddr) : Statement (.movwf f) :=
  ⟨fixedRows[4], List.mem_append_left _ (List.mem_append_left _ (List.getElem_mem (l := fixedRows) _)), beq_iff_eq.mpr (masked_append (x := 0b0000001#7) (p := 0b1111111#7) f rfl), congrArg Instr.movwf (fieldF_append _ f)⟩

theorem clrf (f : FAddr) : Statement (.clrf f) :=
  ⟨fixedRows[6], List.mem_append_left _ (List.mem_append_left _ (List.getElem_mem (l := fixedRows) _)), beq_iff_eq.mpr (masked_append (x := 0b0000011#7) (p := 0b1111111#7) f rfl), congrArg Instr.clrf (fieldF_append _ f)⟩

theorem clrw : Statement .clrw :=
  ⟨fixedRows[5], List.mem_append_left _ (List.mem_append_left _ (List.getElem_mem (l := fixedRows) _)), rfl, rfl⟩

theorem subwf (f : FAddr) (d : Dest) : Statement (.subwf f d) :=
  ⟨byteRows[0], List.mem_append_left _ (List.mem_append_right _ (List.getElem_mem (l := byteRows) _)), 
    beq_iff_eq.mpr (masked_append₂ (x := 0b000010#6) (p := 0b111111#6) d.bit f rfl), 
    congrArg₂ Instr.subwf (fieldF_append_d _ d f) (fieldD_append _ d f)⟩

theorem decf (f : FAddr) (d : Dest) : Statement (.decf f d) :=
  ⟨byteRows[1], List.mem_append_left _ (List.mem_append_right _ (List.getElem_mem (l := byteRows) _)), 
    beq_iff_eq.mpr (masked_append₂ (x := 0b000011#6) (p := 0b111111#6) d.bit f rfl), 
    congrArg₂ Instr.decf (fieldF_append_d _ d f) (fieldD_append _ d f)⟩

theorem iorwf (f : FAddr) (d : Dest) : Statement (.iorwf f d) :=
  ⟨byteRows[2], List.mem_append_left _ (List.mem_append_right _ (List.getElem_mem (l := byteRows) _)), 
    beq_iff_eq.mpr (masked_append₂ (x := 0b000100#6) (p := 0b111111#6) d.bit f rfl), 
    congrArg₂ Instr.iorwf (fieldF_append_d _ d f) (fieldD_append _ d f)⟩

theorem andwf (f : FAddr) (d : Dest) : Statement (.andwf f d) :=
  ⟨byteRows[3], List.mem_append_left _ (List.mem_append_right _ (List.getElem_mem (l := byteRows) _)), 
    beq_iff_eq.mpr (masked_append₂ (x := 0b000101#6) (p := 0b111111#6) d.bit f rfl), 
    congrArg₂ Instr.andwf (fieldF_append_d _ d f) (fieldD_append _ d f)⟩

theorem xorwf (f : FAddr) (d : Dest) : Statement (.xorwf f d) :=
  ⟨byteRows[4], List.mem_append_left _ (List.mem_append_right _ (List.getElem_mem (l := byteRows) _)), 
    beq_iff_eq.mpr (masked_append₂ (x := 0b000110#6) (p := 0b111111#6) d.bit f rfl), 
    congrArg₂ Instr.xorwf (fieldF_append_d _ d f) (fieldD_append _ d f)⟩

theorem addwf (f : FAddr) (d : Dest) : Statement (.addwf f d) :=
  ⟨byteRows[5], List.mem_append_left _ (List.mem_append_right _ (List.getElem_mem (l := byteRows) _)), 
    beq_iff_eq.mpr (masked_append₂ (x := 0b000111#6) (p := 0b111111#6) d.bit f rfl), 
    congrArg₂ Instr.addwf (fieldF_append_d _ d f) (fieldD_append _ d f)⟩

theorem movf (f : FAddr) (d : Dest) : Statement (.movf f d) :=
  ⟨byteRows[6], List.mem_append_left _ (List.mem_append_right _ (List.getElem_mem (l := byteRows) _)), 
    beq_iff_eq.mpr (masked_append₂ (x := 0b001000#6) (p := 0b111111#6) d.bit f rfl), 
    congrArg₂ Instr.movf (fieldF_append_d _ d f) (fieldD_append _ d f)⟩

theorem comf (f : FAddr) (d : Dest) : Statement (.comf f d) :=
  ⟨byteRows[7], List.mem_append_left _ (List.mem_append_right _ (List.getElem_mem (l := byteRows) _)), 
    beq_iff_eq.mpr (masked_append₂ (x := 0b001001#6) (p := 0b111111#6) d.bit f rfl), 
    congrArg₂ Instr.comf (fieldF_append_d _ d f) (fieldD_append _ d f)⟩

theorem incf (f : FAddr) (d : Dest) : Statement (.incf f d) :=
  ⟨byteRows[8], List.mem_append_left _ (List.mem_append_right _ (List.getElem_mem (l := byteRows) _)), 
    beq_iff_eq.mpr (masked_append₂ (x := 0b001010#6) (p := 0b111111#6) d.bit f rfl), 
    congrArg₂ Instr.incf (fieldF_append_d _ d f) (fieldD_append _ d f)⟩

theorem decfsz (f : FAddr) (d : Dest) : Statement (.decfsz f d) :=
  ⟨byteRows[9], List.mem_append_left _ (List.mem_append_right _ (List.getElem_mem (l := byteRows) _)), 
    beq_iff_eq.mpr (masked_append₂ (x := 0b001011#6) (p := 0b111111#6) d.bit f rfl), 
    congrArg₂ Instr.decfsz (fieldF_append_d _ d f) (fieldD_append _ d f)⟩

theorem rrf (f : FAddr) (d : Dest) : Statement (.rrf f d) :=
  ⟨byteRows[10], List.mem_append_left _ (List.mem_append_right _ (List.getElem_mem (l := byteRows) _)), 
    beq_iff_eq.mpr (masked_append₂ (x := 0b001100#6) (p := 0b111111#6) d.bit f rfl), 
    congrArg₂ Instr.rrf (fieldF_append_d _ d f) (fieldD_append _ d f)⟩

theorem rlf (f : FAddr) (d : Dest) : Statement (.rlf f d) :=
  ⟨byteRows[11], List.mem_append_left _ (List.mem_append_right _ (List.getElem_mem (l := byteRows) _)), 
    beq_iff_eq.mpr (masked_append₂ (x := 0b001101#6) (p := 0b111111#6) d.bit f rfl), 
    congrArg₂ Instr.rlf (fieldF_append_d _ d f) (fieldD_append _ d f)⟩

theorem swapf (f : FAddr) (d : Dest) : Statement (.swapf f d) :=
  ⟨byteRows[12], List.mem_append_left _ (List.mem_append_right _ (List.getElem_mem (l := byteRows) _)), 
    beq_iff_eq.mpr (masked_append₂ (x := 0b001110#6) (p := 0b111111#6) d.bit f rfl), 
    congrArg₂ Instr.swapf (fieldF_append_d _ d f) (fieldD_append _ d f)⟩

theorem incfsz (f : FAddr) (d : Dest) : Statement (.incfsz f d) :=
  ⟨byteRows[13], List.mem_append_left _ (List.mem_append_right _ (List.getElem_mem (l := byteRows) _)), 
    beq_iff_eq.mpr (masked_append₂ (x := 0b001111#6) (p := 0b111111#6) d.bit f rfl), 
    congrArg₂ Instr.incfsz (fieldF_append_d _ d f) (fieldD_append _ d f)⟩

theorem bcf (f : FAddr) (b : BitIdx) : Statement (.bcf f b) :=
  ⟨bitControlLiteralRows[0], List.mem_append_right _ (List.getElem_mem (l := bitControlLiteralRows) _), 
    beq_iff_eq.mpr (masked_append₂ (x := 0b0100#4) (p := 0b1111#4) b f rfl), 
    congrArg₂ Instr.bcf (fieldF_append_b _ b f) (fieldB_append _ b f)⟩

theorem bsf (f : FAddr) (b : BitIdx) : Statement (.bsf f b) :=
  ⟨bitControlLiteralRows[1], List.mem_append_right _ (List.getElem_mem (l := bitControlLiteralRows) _), 
    beq_iff_eq.mpr (masked_append₂ (x := 0b0101#4) (p := 0b1111#4) b f rfl), 
    congrArg₂ Instr.bsf (fieldF_append_b _ b f) (fieldB_append _ b f)⟩

theorem btfsc (f : FAddr) (b : BitIdx) : Statement (.btfsc f b) :=
  ⟨bitControlLiteralRows[2], List.mem_append_right _ (List.getElem_mem (l := bitControlLiteralRows) _), 
    beq_iff_eq.mpr (masked_append₂ (x := 0b0110#4) (p := 0b1111#4) b f rfl), 
    congrArg₂ Instr.btfsc (fieldF_append_b _ b f) (fieldB_append _ b f)⟩

theorem btfss (f : FAddr) (b : BitIdx) : Statement (.btfss f b) :=
  ⟨bitControlLiteralRows[3], List.mem_append_right _ (List.getElem_mem (l := bitControlLiteralRows) _), 
    beq_iff_eq.mpr (masked_append₂ (x := 0b0111#4) (p := 0b1111#4) b f rfl), 
    congrArg₂ Instr.btfss (fieldF_append_b _ b f) (fieldB_append _ b f)⟩

theorem call (a : Target) : Statement (.call a) :=
  ⟨bitControlLiteralRows[4], List.mem_append_right _ (List.getElem_mem (l := bitControlLiteralRows) _), 
    beq_iff_eq.mpr (masked_append (x := 0b100#3) (p := 0b111#3) a rfl), congrArg Instr.call (fieldA_append _ a)⟩

theorem goto (a : Target) : Statement (.goto a) :=
  ⟨bitControlLiteralRows[5], List.mem_append_right _ (List.getElem_mem (l := bitControlLiteralRows) _), 
    beq_iff_eq.mpr (masked_append (x := 0b101#3) (p := 0b111#3) a rfl), congrArg Instr.goto (fieldA_append _ a)⟩

theorem movlw (k : Byte) : Statement (.movlw k) :=
  ⟨bitControlLiteralRows[6], List.mem_append_right _ (List.getElem_mem (l := bitControlLiteralRows) _), 
    beq_iff_eq.mpr (masked_append (x := 0b110000#6) (p := 0b111100#6) k rfl), congrArg Instr.movlw (fieldK_append _ k)⟩

theorem retlw (k : Byte) : Statement (.retlw k) :=
  ⟨bitControlLiteralRows[7], List.mem_append_right _ (List.getElem_mem (l := bitControlLiteralRows) _), 
    beq_iff_eq.mpr (masked_append (x := 0b110100#6) (p := 0b111100#6) k rfl), congrArg Instr.retlw (fieldK_append _ k)⟩

theorem iorlw (k : Byte) : Statement (.iorlw k) :=
  ⟨bitControlLiteralRows[8], List.mem_append_right _ (List.getElem_mem (l := bitControlLiteralRows) _), 
    beq_iff_eq.mpr (masked_append (x := 0b111000#6) (p := 0b111111#6) k rfl), congrArg Instr.iorlw (fieldK_append _ k)⟩

theorem andlw (k : Byte) : Statement (.andlw k) :=
  ⟨bitControlLiteralRows[9], List.mem_append_right _ (List.getElem_mem (l := bitControlLiteralRows) _), 
    beq_iff_eq.mpr (masked_append (x := 0b111001#6) (p := 0b111111#6) k rfl), congrArg Instr.andlw (fieldK_append _ k)⟩

theorem xorlw (k : Byte) : Statement (.xorlw k) :=
  ⟨bitControlLiteralRows[10], List.mem_append_right _ (List.getElem_mem (l := bitControlLiteralRows) _), 
    beq_iff_eq.mpr (masked_append (x := 0b111010#6) (p := 0b111111#6) k rfl), congrArg Instr.xorlw (fieldK_append _ k)⟩

theorem sublw (k : Byte) : Statement (.sublw k) :=
  ⟨bitControlLiteralRows[11], List.mem_append_right _ (List.getElem_mem (l := bitControlLiteralRows) _), 
    beq_iff_eq.mpr (masked_append (x := 0b111100#6) (p := 0b111110#6) k rfl), congrArg Instr.sublw (fieldK_append _ k)⟩

theorem addlw (k : Byte) : Statement (.addlw k) :=
  ⟨bitControlLiteralRows[12], List.mem_append_right _ (List.getElem_mem (l := bitControlLiteralRows) _), 
    beq_iff_eq.mpr (masked_append (x := 0b111110#6) (p := 0b111110#6) k rfl), congrArg Instr.addlw (fieldK_append _ k)⟩

end EncodesInTable

end Sys2Proof.Laws
end

