-- ==== Sys2Proof/Tests/Slice0.lean ====
section
/-! SUPPORT. The model's own tests. Expected results come from the spec: the decode list and the vectors of
95_test_vectors.md (L1, L2), and the encodings of 30_encoding.md R83. -/

namespace Sys2Proof.Tests

open Machine

/-! ### Well-formedness: each check refuses an ill-formed image -/

theorem test_image_ok : Image.wellFormed [(0, 0x301F), (1, 0x3E05)] = true := by decide
theorem test_image_address_out_of_range : Image.wellFormed [(4096, 0)] = false := by decide
theorem test_image_word_too_wide : Image.wellFormed [(0, 0x4000)] = false := by decide
theorem test_image_address_twice : Image.wellFormed [(1, 0x3000), (1, 0x3001)] = false := by decide
theorem test_number_wider_than_word : decodeTableWord 16 0x4000 = none := by decide
theorem test_load_ill_formed : (State.reset.loadImage [(0, 0x4000)]).isNone = true := by decide

/-! ### Decoding: one word per row, written out from its pattern (R83), and the first and last words of L1.1 -/

theorem test_decode_nop : decode 0b00000000100000#14 = .nop := by decide
theorem test_decode_return : decode 0b00000000001000#14 = .ret := by decide
theorem test_decode_retfie : decode 0b00000000001001#14 = .retfie := by decide
theorem test_decode_sleep : decode 0b00000001100011#14 = .sleep := by decide
theorem test_decode_movwf : decode 0b00000010100000#14 = .movwf 0x20#7 := by decide
theorem test_decode_clrw : decode 0b00000101111111#14 = .clrw := by decide
theorem test_decode_clrf : decode 0b00000110110000#14 = .clrf 0x30#7 := by decide
theorem test_decode_subwf : decode 0b00001000100001#14 = .subwf 0x21#7 .w := by decide
theorem test_decode_decf : decode 0b00001110100010#14 = .decf 0x22#7 .f := by decide
theorem test_decode_iorwf : decode 0b00010000100011#14 = .iorwf 0x23#7 .w := by decide
theorem test_decode_andwf : decode 0b00010110100100#14 = .andwf 0x24#7 .f := by decide
theorem test_decode_xorwf : decode 0b00011000100101#14 = .xorwf 0x25#7 .w := by decide
theorem test_decode_addwf : decode 0b00011110000101#14 = .addwf 0x05#7 .f := by decide
theorem test_decode_movf : decode 0b00100000100110#14 = .movf 0x26#7 .w := by decide
theorem test_decode_comf : decode 0b00100110100111#14 = .comf 0x27#7 .f := by decide
theorem test_decode_incf : decode 0b00101000101000#14 = .incf 0x28#7 .w := by decide
theorem test_decode_decfsz : decode 0b00101110101001#14 = .decfsz 0x29#7 .f := by decide
theorem test_decode_rrf : decode 0b00110010101010#14 = .rrf 0x2A#7 .f := by decide
theorem test_decode_rlf : decode 0b00110100101011#14 = .rlf 0x2B#7 .w := by decide
theorem test_decode_swapf : decode 0b00111010001000#14 = .swapf 0x08#7 .f := by decide
theorem test_decode_incfsz : decode 0b00111100101100#14 = .incfsz 0x2C#7 .w := by decide
theorem test_decode_bcf : decode 0b01000110010000#14 = .bcf 0x10#7 3#3 := by decide
theorem test_decode_bsf : decode 0b01010110010000#14 = .bsf 0x10#7 3#3 := by decide
theorem test_decode_btfsc : decode 0b01100000010000#14 = .btfsc 0x10#7 0#3 := by decide
theorem test_decode_btfss : decode 0b01111110010000#14 = .btfss 0x10#7 7#3 := by decide
theorem test_decode_call : decode 0b10000000010101#14 = .call 0x015#11 := by decide
theorem test_decode_goto : decode 0b10100100000000#14 = .goto 0x100#11 := by decide
theorem test_decode_movlw : decode 0b11001100011111#14 = .movlw 0x1F#8 := by decide
theorem test_decode_retlw : decode 0b11010001000010#14 = .retlw 0x42#8 := by decide
theorem test_decode_iorlw : decode 0b11100000001111#14 = .iorlw 0x0F#8 := by decide
theorem test_decode_andlw : decode 0b11100111000100#14 = .andlw 0xC4#8 := by decide
theorem test_decode_xorlw : decode 0b11101001010111#14 = .xorlw 0x57#8 := by decide
theorem test_decode_sublw : decode 0b11110100001010#14 = .sublw 0x0A#8 := by decide
theorem test_decode_addlw : decode 0b11111000000101#14 = .addlw 0x05#8 := by decide
theorem test_decode_reserved :
    [0x0001, 0x000A, 0x0064, 0x007F, 0x3B00, 0x3B42, 0x3BFF].all
      (fun w => decodeTableWord 16 w == some .nop) = true := by decide
theorem test_decode_last_words :
    decode 0x0FFF#14 = .incfsz 0x7F#7 .f ∧ decode 0x13FF#14 = .bcf 0x7F#7 7#3 ∧ decode 0x27FF#14 = .call 0x7FF#11 ∧
    decode 0x3FFF#14 = .addlw 0xFF#8 := by decide

/-! ### One instruction (95_test_vectors.md L2): the word runs at PC 0x040 with file register 0x20 holding `fv` -/

/-- A state with PC 0x040, W, C, Z and file register 0x20 as given. -/
def start (w fv : Byte) (c z : Bool) : State :=
  { State.reset with w := w, c := c, z := z, pc := 0x040#12, file := Memory.write [] 0x20 fv, bitTestSkip := true }

/-- The state an answer gives, or reset where it gives none. -/
def got : Answer → State
  | .next t => t
  | .fault _ => State.reset
  | .refused _ => State.reset

/-- W, C, Z, pause, PC and file register 0x20 after the word ran. -/
def after (word : InsnWord) (s : State) : Byte × Bool × Bool × Bool × PAddr × Byte :=
  let t := got (exec (decode word) s)
  (t.w, t.c, t.z, t.pause, t.pc, Memory.read t.file 0x20)

theorem test_reserved_word :
    after 0x3B42#14 (start 0x12#8 0x00#8 true true) = (0x12#8, true, true, false, 0x041#12, 0x00#8) := by decide
theorem test_nop :
    after 0x0000#14 (start 0x00#8 0x00#8 false false) = (0x00#8, false, false, false, 0x041#12, 0x00#8) := by decide
theorem test_sleep :
    after 0x0063#14 (start 0x12#8 0x00#8 true true) = (0x12#8, true, true, false, 0x041#12, 0x00#8) := by decide
theorem test_movwf :
    after 0x00A0#14 (start 0x5a#8 0x00#8 false false) = (0x5a#8, false, false, false, 0x041#12, 0x5a#8) := by decide
theorem test_clrw :
    after 0x0100#14 (start 0x77#8 0x00#8 false false) = (0x00#8, false, true, false, 0x041#12, 0x00#8) := by decide
theorem test_clrf_leaves_file :
    after 0x01A0#14 (start 0x77#8 0x99#8 false false) = (0x00#8, false, true, false, 0x041#12, 0x99#8) := by decide
theorem test_subwf :
    after 0x02A0#14 (start 0x01#8 0x05#8 false false) = (0x01#8, true, false, false, 0x041#12, 0xfc#8) := by decide
theorem test_subwf_zero :
    after 0x0220#14 (start 0x40#8 0x00#8 false false) = (0x40#8, true, false, false, 0x041#12, 0x00#8) := by decide
theorem test_decf :
    after 0x03A0#14 (start 0x00#8 0x01#8 false false) = (0x00#8, false, true, false, 0x041#12, 0x00#8) := by decide
theorem test_decf_wrap :
    after 0x0320#14 (start 0x00#8 0x00#8 false false) = (0xff#8, true, false, false, 0x041#12, 0x00#8) := by decide
theorem test_iorwf_z_quirk :
    after 0x0420#14 (start 0x01#8 0xff#8 false false) = (0xff#8, false, true, false, 0x041#12, 0xff#8) := by decide
theorem test_andwf_z_quirk :
    after 0x0520#14 (start 0x0f#8 0xf0#8 false false) = (0x00#8, false, false, false, 0x041#12, 0xf0#8) := by decide
theorem test_xorwf :
    after 0x0620#14 (start 0xa5#8 0x57#8 false false) = (0xf2#8, false, false, false, 0x041#12, 0x57#8) := by decide
theorem test_xorwf_z_quirk :
    after 0x0620#14 (start 0x3c#8 0x3c#8 false false) = (0x00#8, false, false, false, 0x041#12, 0x3c#8) := by decide
theorem test_addwf :
    after 0x07A0#14 (start 0x24#8 0x20#8 false false) = (0x24#8, false, false, false, 0x041#12, 0x44#8) := by decide
theorem test_addwf_carry_zero :
    after 0x0720#14 (start 0x80#8 0x80#8 false false) = (0x00#8, true, true, false, 0x041#12, 0x80#8) := by decide
theorem test_movf_keeps_c :
    after 0x0820#14 (start 0x55#8 0x00#8 true false) = (0x00#8, true, true, false, 0x041#12, 0x00#8) := by decide
theorem test_comf :
    after 0x0920#14 (start 0x00#8 0x0f#8 false false) = (0xf0#8, false, false, false, 0x041#12, 0x0f#8) := by decide
theorem test_comf_zero :
    after 0x09A0#14 (start 0x00#8 0xff#8 false false) = (0x00#8, false, true, false, 0x041#12, 0x00#8) := by decide
theorem test_incf :
    after 0x0AA0#14 (start 0x00#8 0x41#8 false false) = (0x00#8, false, false, false, 0x041#12, 0x42#8) := by decide
theorem test_incf_wrap :
    after 0x0A20#14 (start 0x00#8 0xff#8 false false) = (0x00#8, true, true, false, 0x041#12, 0xff#8) := by decide
theorem test_decfsz_skip :
    after 0x0BA0#14 (start 0x00#8 0x01#8 false true) = (0x00#8, false, true, true, 0x041#12, 0x00#8) := by decide
theorem test_decfsz_wrap :
    after 0x0BA0#14 (start 0x00#8 0x00#8 false false) = (0x00#8, true, false, false, 0x041#12, 0xff#8) := by decide
theorem test_rrf :
    after 0x0CA0#14 (start 0x00#8 0x02#8 true false) = (0x00#8, false, false, false, 0x041#12, 0x81#8) := by decide
theorem test_rrf_into_w :
    after 0x0C20#14 (start 0x77#8 0x01#8 false false) = (0x00#8, true, false, false, 0x041#12, 0x01#8) := by decide
theorem test_rlf :
    after 0x0DA0#14 (start 0x00#8 0x81#8 false false) = (0x00#8, true, false, false, 0x041#12, 0x02#8) := by decide
theorem test_rlf_into_w :
    after 0x0D20#14 (start 0x00#8 0x00#8 true false) = (0x01#8, false, false, false, 0x041#12, 0x00#8) := by decide
theorem test_swapf :
    after 0x0EA0#14 (start 0x00#8 0x0f#8 true false) = (0x00#8, false, false, false, 0x041#12, 0xf0#8) := by decide
theorem test_incfsz_skip :
    after 0x0FA0#14 (start 0x00#8 0xff#8 false false) = (0x00#8, true, false, true, 0x041#12, 0x00#8) := by decide
theorem test_incfsz :
    after 0x0FA0#14 (start 0x00#8 0x7f#8 false false) = (0x00#8, false, false, false, 0x041#12, 0x80#8) := by decide
theorem test_bcf :
    after 0x11A0#14 (start 0x00#8 0xff#8 true false) = (0x00#8, false, false, false, 0x041#12, 0xf7#8) := by decide
theorem test_bsf :
    after 0x17A0#14 (start 0x00#8 0x00#8 true false) = (0x00#8, false, false, false, 0x041#12, 0x80#8) := by decide
theorem test_btfsc_clear :
    after 0x1820#14 (start 0x00#8 0xfe#8 false false) = (0x00#8, false, false, true, 0x041#12, 0xfe#8) := by decide
theorem test_btfsc_set :
    after 0x18A0#14 (start 0x00#8 0xfe#8 false false) = (0x00#8, false, false, false, 0x041#12, 0xfe#8) := by decide
theorem test_btfss_set :
    after 0x1FA0#14 (start 0x00#8 0x80#8 false false) = (0x00#8, false, false, true, 0x041#12, 0x80#8) := by decide
theorem test_btfss_clear :
    after 0x1F20#14 (start 0x00#8 0x80#8 false false) = (0x00#8, false, false, false, 0x041#12, 0x80#8) := by decide
theorem test_movlw_ignores_bits :
    after 0x331F#14 (start 0x00#8 0x00#8 false false) = (0x1f#8, false, false, false, 0x041#12, 0x00#8) := by decide
theorem test_iorlw :
    after 0x380F#14 (start 0xf0#8 0x00#8 false false) = (0xff#8, false, false, false, 0x041#12, 0x00#8) := by decide
theorem test_andlw_z_quirk :
    after 0x3901#14 (start 0xff#8 0x00#8 false false) = (0x01#8, false, true, false, 0x041#12, 0x00#8) := by decide
theorem test_xorlw :
    after 0x3A57#14 (start 0xa5#8 0x00#8 false false) = (0xf2#8, false, false, false, 0x041#12, 0x00#8) := by decide
theorem test_sublw :
    after 0x3C05#14 (start 0x01#8 0x00#8 false false) = (0xfc#8, true, false, false, 0x041#12, 0x00#8) := by decide
theorem test_sublw_zero :
    after 0x3C00#14 (start 0x42#8 0x00#8 false false) = (0x42#8, true, false, false, 0x041#12, 0x00#8) := by decide
theorem test_addlw :
    after 0x3E05#14 (start 0x1f#8 0x00#8 false false) = (0x24#8, false, false, false, 0x041#12, 0x00#8) := by decide
theorem test_addlw_wrap :
    after 0x3E01#14 (start 0xff#8 0x00#8 false false) = (0x00#8, true, true, false, 0x041#12, 0x00#8) := by decide

theorem test_btfss_parameter_off :
    (got (exec (decode 0x1FA0#14) { start 0#8 0x80#8 false false with bitTestSkip := false })).pause = false := by decide

/-! ### Control transfer (L1.8, L2.1, L2.4) -/

/-- PC, count, slot 0 and slot 7 after the word ran. -/
def flow (word : InsnWord) (s : State) : PAddr × BitVec 3 × PAddr × PAddr :=
  let t := got (exec (decode word) s)
  (t.pc, t.count, t.stack[0], t.stack[7])

theorem test_call : flow 0x2015#14 { State.reset with pc := 8#12 } = (0x015#12, 1#3, 9#12, 0#12) := by decide
theorem test_call_wraps_count :
    flow 0x27FF#14 { State.reset with pc := 0x100#12, count := 7#3, pclath := 0x08#8 } =
      (0xFFF#12, 0#3, 0#12, 0x101#12) := by decide
theorem test_goto_pclath_bit_3 :
    flow 0x2900#14 { State.reset with pclath := 0x08#8 } = (0x900#12, 0#3, 0#12, 0#12) := by decide
theorem test_goto_other_pclath_bits :
    flow 0x2900#14 { State.reset with pclath := 0xF7#8 } = (0x100#12, 0#3, 0#12, 0#12) := by decide
theorem test_return :
    flow 0x0008#14 { State.reset with count := 1#3, stack := #v[9#12, 0, 0, 0, 0, 0, 0, 0] } =
      (9#12, 0#3, 9#12, 0#12) := by decide
theorem test_return_empty :
    flow 0x0008#14 { State.reset with stack := #v[0, 0, 0, 0, 0, 0, 0, 0x123#12] } =
      (0x123#12, 7#3, 0#12, 0x123#12) := by decide
theorem test_retfie :
    flow 0x0009#14 { State.reset with count := 2#3, stack := #v[0x111#12, 0x222#12, 0, 0, 0, 0, 0, 0] } =
      (0x222#12, 1#3, 0x111#12, 0#12) := by decide
theorem test_retlw :
    flow 0x3442#14 { State.reset with count := 1#3, stack := #v[9#12, 0, 0, 0, 0, 0, 0, 0] } =
      (9#12, 0#3, 9#12, 0#12) ∧ (got (exec (decode 0x3442#14) State.reset)).w = 0x42#8 := by decide
theorem test_pc_wraps : flow 0x0000#14 { State.reset with pc := 0xFFF#12 } = (0#12, 0#3, 0#12, 0#12) := by decide

/-! ### Bus events (L1.7, L2.5) -/

theorem test_addwf_events :
    (got (step ({ State.reset with w := 0x24#8, file := [(5, 0x20#8)] }.withFetchWord 16 0x0785))).bus =
      [.write 5#7 0x44#8, .read 5#7 0x20#8, .fetch 0#12 0x0785#14] := by decide
theorem test_first_step_after_reset :
    let t := got (step (State.reset.withFetchWord 16 0x3055))
    t.w = 0x55#8 ∧ t.pc = 1#12 ∧ t.bus = [.fetch 0#12 0x3055#14] := by decide
theorem test_skipped_call_does_nothing :
    let s := { State.reset with pc := 0x041#12, pause := true, prog := [(0x041, 0x2100#14)] }
    let t := got (step s)
    t.pc = 0x042#12 ∧ t.count = 0#3 ∧ t.pause = false ∧ t.bus = [.fetch 0x041#12 0x2100#14] := by decide
theorem test_page_select_write :
    (got (exec (.movwf 0x0A#7) { State.reset with w := 0x08#8, pageSelect := some 0x0A#7 })).pclath = 0x08#8 := by decide

/-! ### The cycle schedule (L1.7): four clocks from reset run the first word up to its commit -/

theorem test_window_reads_before_commit :
    let t := window ({ State.reset with w := 0x24#8, file := [(5, 0x20#8)] }.withFetchWord 16 0x0785)
    t.bus = [.read 5#7 0x20#8, .fetch 0#12 0x0785#14] ∧ t.pc = 1#12 ∧ t.latch.rhs = 0x20#8 ∧ t.w = 0x24#8 := by decide
theorem test_commit_in_next_phase_zero :
    let t := clock (window ({ State.reset with w := 0x24#8, file := [(5, 0x20#8)] }.withFetchWord 16 0x0785))
    t.latch.periphWrite = true ∧ t.latch.writeData = 0x44#8 ∧ Memory.read t.file 5 = 0x44#8 := by decide

/-! ### Execution units (L1.2) -/

theorem test_sub_units : arithValue .sub 35#8 10#8 = 25#8 ∧ arithCarry .sub 35#8 10#8 = false ∧
    arithValue .sub 1#8 5#8 = 252#8 ∧ arithCarry .sub 1#8 5#8 = true := by decide
theorem test_inc_dec_units : arithValue .inc 35#8 0#8 = 1#8 ∧ arithCarry .inc 35#8 0#8 = false ∧
    arithValue .dec 66#8 0#8 = 255#8 ∧ arithCarry .dec 66#8 0#8 = true := by decide
theorem test_disabled_units :
    arithUnit false .add 5#8 10#8 0#8 = (0#8, false) ∧ bitUnit false .rotl 0x81#8 true 0#3 = (0#8, false) := by decide

/-! ### Witnesses: concrete states and operands that meet the hypotheses of the statements -/

/-- A state with file register 0x20 at 5, a port at 0x21 and a page-select register at 0x22. -/
def busy : State :=
  { start 0x08#8 5#8 true false with ports := [0x21#7], pageSelect := some 0x22#7 }

theorem witness_reserved_words :
    reserved 0x0001#14 = true ∧ reserved 0x007F#14 = true ∧ reserved 0x3B00#14 = true ∧ reserved 0x3BFF#14 = true ∧
    reserved 0x0080#14 = false ∧ reserved 0x3AFF#14 = false ∧ reserved 0x3C00#14 = false := by decide
theorem witness_nop_step : decode State.reset.windowWord = .nop ∧ decode { busy with pause := true }.windowWord = .nop := by
  decide
theorem witness_row_orders : List.Perm decodeTable.reverse decodeTable := List.reverse_perm _
theorem witness_step_decoded :
    (State.reset.withFetchWord 16 0x3055).pause = false ∧
    decode (Memory.read (State.reset.withFetchWord 16 0x3055).prog 0) = .movlw 0x55#8 := by decide
theorem witness_paused : ({ busy with pause := true } : State).pause = true := rfl
theorem witness_pause_set :
    (∃ t, exec (.decfsz 0x20#7 .f) (start 0 1#8 false false) = .next t ∧ t.pause = true) ∧
    (∃ t, exec (.incfsz 0x20#7 .w) (start 0 0xFF#8 false false) = .next t ∧ t.pause = true) ∧
    (∃ t, exec (.btfsc 0x20#7 0#3) (start 0 0xFE#8 false false) = .next t ∧ t.pause = true) ∧
    ∃ t, exec (.btfss 0x20#7 7#3) (start 0 0x80#8 false false) = .next t ∧ t.pause = true :=
  ⟨⟨_, rfl, by decide⟩, ⟨_, rfl, by decide⟩, ⟨_, rfl, by decide⟩, ⟨_, rfl, by decide⟩⟩
theorem witness_skip_operands :
    (start 0 1#8 false false).fileByte 0x20#7 = 1#8 ∧ (start 0 0xFF#8 false false).fileByte 0x20#7 = 0xFF#8 := by decide
theorem witness_stack_uses :
    (∃ t, exec (.call 0x015#11) busy = .next t) ∧ (∃ t, exec (.retlw 1#8) busy = .next t) ∧
    ∃ t, exec (.goto 0#11) busy = .next t := ⟨⟨_, rfl⟩, ⟨_, rfl⟩, ⟨_, rfl⟩⟩
theorem witness_register_frame :
    (∃ t, exec (.subwf 0x20#7 .f) busy = .next t) ∧ writesW (.subwf 0x20#7 .f) = false ∧
    (∃ t, exec (.rrf 0x20#7 .w) busy = .next t) ∧ writesZ (.rrf 0x20#7 .w) = false ∧
    (∃ t, exec (.movf 0x20#7 .w) busy = .next t) ∧ writesC (.movf 0x20#7 .w) = false :=
  ⟨⟨_, rfl⟩, rfl, ⟨_, rfl⟩, rfl, ⟨_, rfl⟩, rfl⟩
theorem witness_memory_frame :
    (∃ t, exec (.incf 0x20#7 .f) busy = .next t) ∧ storesTo (.incf 0x20#7 .f) ≠ some 0#7 ∧
    storesTo (.incf 0x20#7 .f) ≠ some 0x7F#7 ∧ storesTo (.incf 0x20#7 .w) = none ∧ 0x21#7 ∈ busy.ports ∧
    storesTo (.incf 0x20#7 .f) ≠ busy.pageSelect := ⟨⟨_, rfl⟩, by decide⟩
theorem witness_stored_byte :
    Canonical busy ∧ 0x20#7 ∉ busy.ports ∧ 0#7 ∉ busy.ports ∧ 0x7F#7 ∉ busy.ports ∧ (0x7F#7 : FAddr) ≠ 0#7 := by
  unfold Canonical
  decide
theorem witness_store_address :
    (∃ t, exec (.bsf 0x20#7 3#3) busy = .next t) ∧ storesTo (.bsf 0x20#7 3#3) = some 0x20#7 ∧
    0x20#7 ∉ busy.ports ∧ Canonical busy ∧ storedByte (.bsf 0x20#7 3#3) busy = 0x0D#8 ∧
    (∃ t, exec (.movwf 0x21#7) busy = .next t) ∧ storesTo (.movwf 0x21#7) = some 0x21#7 ∧ 0x21#7 ∈ busy.ports :=
  ⟨⟨_, rfl⟩, by decide, by decide, by unfold Canonical; decide, by decide, ⟨_, rfl⟩, by decide⟩
theorem witness_bus_events :
    (busy.withFetchWord 16 0x0AA0).pause = false ∧ ∃ t, step (busy.withFetchWord 16 0x0AA0) = .next t :=
  ⟨rfl, _, rfl⟩
theorem witness_reaches : ∃ t, Reaches busy t ∧ t.pc = 0x042#12 :=
  ⟨_, .tail (.tail (.refl busy) rfl) rfl, by decide⟩
theorem witness_canonical_step : Canonical busy ∧ Idle busy ∧ ∃ t, step busy = .next t := ⟨by unfold Canonical; decide, rfl, _, rfl⟩
theorem witness_run : ∃ t, Host.Core.run core 2 busy = .next t := ⟨_, rfl⟩
theorem witness_carry_unread :
    (readsC (.addwf 0x20#7 .w) = false ∧ writesC (.addwf 0x20#7 .w) = true ∧
      ∃ t, exec (.addwf 0x20#7 .w) busy = .next t) ∧
    readsC (.movf 0x20#7 .w) = false ∧ writesC (.movf 0x20#7 .w) = false ∧
      ∃ t, exec (.movf 0x20#7 .w) busy = .next t := ⟨⟨rfl, rfl, _, rfl⟩, rfl, rfl, _, rfl⟩
theorem witness_pclath_bits :
    BitVec.getLsbD 0xF7#8 3 = busy.pclath.getLsbD 3 ∧ (∃ t, exec (.goto 1#11) busy = .next t) ∧
    storesTo (.movwf 0x22#7) = busy.pageSelect ∧ ∃ t, exec (.movwf 0x22#7) busy = .next t :=
  ⟨by decide, ⟨_, rfl⟩, by decide, _, rfl⟩
theorem witness_page_select : busy.pageSelect = some 0x22#7 := rfl
theorem witness_pushes : (List.replicate 8 1#12).length ≤ 8 ∧ (List.replicate 8 1#12).length = 8 := by decide

/-- A cycle-level state in each phase, the window running SUBWF 0x20,f. -/
def inPhase : Nat → State
  | 0 => busy.withFetchWord 16 0x02A0
  | n + 1 => clock (inPhase n)

theorem witness_phases :
    (inPhase 0).latch.phase = 0#2 ∧ (inPhase 1).latch.phase = 1#2 ∧ (inPhase 2).latch.phase = 2#2 ∧
    (inPhase 3).latch.phase = 3#2 := by decide
theorem witness_phase_zero_store :
    (inPhase 4).latch.phase = 0#2 ∧ storesTo (decode (inPhase 4).latch.ir) = some 0x20#7 := by decide

/-- A cycle-level state at phase 0 with a word in `IR`. -/
def committing (ir : InsnWord) : State := { busy with latch := { Latches.reset with ir := ir } }

theorem witness_phase_zero_pause :
    (committing 0x0BA0#14).latch.phase = 0#2 ∧ decode (committing 0x0BA0#14).latch.ir = .decfsz 0x20#7 .f ∧
    decode (committing 0x0F20#14).latch.ir = .incfsz 0x20#7 .w ∧
    decode (committing 0x1820#14).latch.ir = .btfsc 0x20#7 0#3 ∧
    decode (committing 0x1FA0#14).latch.ir = .btfss 0x20#7 7#3 ∧
    maySkip true (decode (committing 0x2815#14).latch.ir) = false ∧
    storesTo (decode (committing 0x2815#14).latch.ir) = none := by decide
theorem witness_phase_one_clauses :
    (inPhase 1).pause = false ∧
    ({ inPhase 1 with pause := true } : State).pause = true := by decide
theorem witness_phase_two_call :
    let s := clock (clock (busy.withFetchWord 16 0x2015))
    s.latch.phase = 2#2 ∧ decode s.latch.ir = .call 0x015#11 := by decide
theorem witness_phase_two_others :
    let s := clock (clock (busy.withFetchWord 16 0x0008))
    let t := clock (clock (busy.withFetchWord 16 0x2815))
    s.latch.phase = 2#2 ∧ stackUse (decode s.latch.ir) = some false ∧
    t.latch.phase = 2#2 ∧ decode t.latch.ir = .goto 0x015#11 ∧ stackUse (decode t.latch.ir) = none := by decide
theorem witness_phase_three_read :
    (inPhase 3).latch.periphRead = true ∧ (readsFrom (decode (inPhase 3).latch.ir)).isSome = true ∧
    (clock (clock (clock (busy.withFetchWord 16 0x2015)))).latch.periphRead = false := by decide
theorem witness_strobes_apart : ((inPhase 0).latch.push && (inPhase 0).latch.pop) = false := by decide
theorem witness_idle : Idle State.reset ∧ State.reset.latch.phase = 0#2 := ⟨rfl, rfl⟩

end Sys2Proof.Tests
end

section

/-! ## The decoder: the operands of a decoded instruction are fields of its word -/

namespace Sys2Proof.Machine

/-- Each operand of the instruction is the word's field of that name (R81, R82). CLRF uses no operand, and MOVWF,
which has no `d`, has bit 7 set in its pattern, so that its destination reads as F (R83, D10). -/
def OperandsFrom (w : InsnWord) : Instr → Prop
  | .nop | .ret | .retfie | .sleep | .clrw | .clrf _ => True
  | .movwf f => f = fieldF w ∧ fieldD w = .f
  | .subwf f d | .decf f d | .iorwf f d | .andwf f d | .xorwf f d | .addwf f d | .movf f d
  | .comf f d | .incf f d | .decfsz f d | .rrf f d | .rlf f d | .swapf f d | .incfsz f d =>
    f = fieldF w ∧ d = fieldD w
  | .bcf f b | .bsf f b | .btfsc f b | .btfss f b => f = fieldF w ∧ b = fieldB w
  | .call a | .goto a => a = fieldA w
  | .movlw k | .retlw k | .iorlw k | .andlw k | .xorlw k | .sublw k | .addlw k => k = fieldK w

/-- A table decodes a word by a row that accepts it, or to NOP (R84, R86). -/
theorem decodeBy_cases (rows : List DecodeRow) (w : InsnWord) :
    (∃ r ∈ rows, r.accepts w = true ∧ decodeBy rows w = r.build w) ∨ decodeBy rows w = .nop := by
  unfold decodeBy
  cases h : rows.find? (·.accepts w) with
  | none => exact .inr rfl
  | some r =>
    have haccepts := List.find?_some (p := fun r : DecodeRow => r.accepts w) h
    exact .inl ⟨r, List.mem_of_find?_eq_some h, haccepts, rfl⟩

theorem fieldD_of_movwf_pattern {w : InsnWord} (h : w &&& 0x3F80#14 = 0x0080#14) : fieldD w = .f := by
  have hbit : w.getLsbD 7 = true := by simpa using congrArg (BitVec.getLsbD · 7) h
  exact if_pos hbit

theorem build_operandsFrom {w : InsnWord} :
    ∀ r ∈ decodeTable, r.accepts w = true → OperandsFrom w (r.build w) := by
  simp only [decodeTable, fixedRows, byteRows, bitControlLiteralRows, List.forall_mem_append, List.forall_mem_cons,
    DecodeRow.accepts, beq_iff_eq, OperandsFrom]
  simpa using fieldD_of_movwf_pattern

theorem decode_operandsFrom (w : InsnWord) : OperandsFrom w (decode w) := by
  unfold decode
  obtain ⟨r, hr, haccepts, hbuild⟩ | hnop := decodeBy_cases decodeTable w
  · rw [hbuild]; exact build_operandsFrom r hr haccepts
  · rw [hnop]; trivial

theorem decode_zero : decode 0x0000#14 = .nop := by decide

end Sys2Proof.Machine

/-! ## The operations of the shared step, in every order -/

namespace Sys2Proof.Machine

/-- The read event of an instruction that reads a file register (R133, R145). -/
def State.readIf (s : State) (reads : Bool) (f : FAddr) : State := if reads then s.recordRead f else s

/-- Write the flags of a result, and `pause` from its skip decision (R138, R139, R142). -/
def State.complete (s : State) (r : Result) : State := { s.setFlags r with pause := r.skip }

/-- The same state with other latches. -/
def State.withLatch (s : State) (l : Latches) : State := { s with latch := l }

variable (s : State)

/-! ### What each leaves alone -/

@[simp] theorem State.readIf_w (reads : Bool) (f : FAddr) : (s.readIf reads f).w = s.w := by cases reads <;> rfl
@[simp] theorem State.readIf_c (reads : Bool) (f : FAddr) : (s.readIf reads f).c = s.c := by cases reads <;> rfl
@[simp] theorem State.readIf_z (reads : Bool) (f : FAddr) : (s.readIf reads f).z = s.z := by cases reads <;> rfl
@[simp] theorem State.readIf_pause (reads : Bool) (f : FAddr) :
    (s.readIf reads f).pause = s.pause := by cases reads <;> rfl
@[simp] theorem State.readIf_latch (reads : Bool) (f : FAddr) :
    (s.readIf reads f).latch = s.latch := by cases reads <;> rfl
@[simp] theorem State.readIf_bitTestSkip (reads : Bool) (f : FAddr) :
    (s.readIf reads f).bitTestSkip = s.bitTestSkip := by cases reads <;> rfl

@[simp] theorem State.writeResult_c (dest : Option Dest) (f : FAddr) (v : Byte) :
    (s.writeResult dest f v).c = s.c := by rcases dest with _ | _ | _ <;> rfl
@[simp] theorem State.writeResult_z (dest : Option Dest) (f : FAddr) (v : Byte) :
    (s.writeResult dest f v).z = s.z := by rcases dest with _ | _ | _ <;> rfl
@[simp] theorem State.writeResult_latch (dest : Option Dest) (f : FAddr) (v : Byte) :
    (s.writeResult dest f v).latch = s.latch := by rcases dest with _ | _ | _ <;> rfl

@[simp] theorem State.follow_w (flow : Flow) (a : Target) : (s.follow flow a).w = s.w := by cases flow <;> rfl
@[simp] theorem State.follow_c (flow : Flow) (a : Target) : (s.follow flow a).c = s.c := by cases flow <;> rfl
@[simp] theorem State.follow_pause (flow : Flow) (a : Target) :
    (s.follow flow a).pause = s.pause := by cases flow <;> rfl
@[simp] theorem State.follow_latch (flow : Flow) (a : Target) :
    (s.follow flow a).latch = s.latch := by cases flow <;> rfl
@[simp] theorem State.follow_bitTestSkip (flow : Flow) (a : Target) :
    (s.follow flow a).bitTestSkip = s.bitTestSkip := by cases flow <;> rfl
@[simp] theorem State.follow_fileByte (flow : Flow) (a : Target) (f : FAddr) :
    (s.follow flow a).fileByte f = s.fileByte f := by cases flow <;> rfl

@[simp] theorem State.complete_latch (r : Result) : (s.complete r).latch = s.latch := rfl

@[simp] theorem State.withLatch_w (l : Latches) : (s.withLatch l).w = s.w := rfl
@[simp] theorem State.withLatch_c (l : Latches) : (s.withLatch l).c = s.c := rfl
@[simp] theorem State.withLatch_pause (l : Latches) : (s.withLatch l).pause = s.pause := rfl
@[simp] theorem State.withLatch_bitTestSkip (l : Latches) : (s.withLatch l).bitTestSkip = s.bitTestSkip := rfl
@[simp] theorem State.withLatch_latch (l : Latches) : (s.withLatch l).latch = l := rfl
@[simp] theorem State.withLatch_withLatch (k l : Latches) : (s.withLatch k).withLatch l = s.withLatch l := rfl
@[simp] theorem State.withLatch_self : s.withLatch s.latch = s := rfl

theorem State.readIf_congr {reads : Bool} {f f' : FAddr} (h : reads = true → f = f') :
    s.readIf reads f = s.readIf reads f' := by
  cases reads with
  | true => rw [h rfl]
  | false => rfl

/-! ### Which of them commute -/

theorem State.readIf_withLatch (l : Latches) (reads : Bool) (f : FAddr) :
    (s.withLatch l).readIf reads f = (s.readIf reads f).withLatch l := by cases reads <;> rfl

theorem State.writeResult_withLatch (l : Latches) (dest : Option Dest) (f : FAddr) (v : Byte) :
    (s.withLatch l).writeResult dest f v = (s.writeResult dest f v).withLatch l := by
  rcases dest with _ | _ | _ <;> rfl

theorem State.complete_withLatch (l : Latches) (r : Result) :
    (s.withLatch l).complete r = (s.complete r).withLatch l := rfl

theorem State.follow_withLatch (l : Latches) (flow : Flow) (a : Target) :
    (s.withLatch l).follow flow a = (s.follow flow a).withLatch l := by cases flow <;> rfl

theorem State.follow_readIf (flow : Flow) (a : Target) (reads : Bool) (f : FAddr) :
    (s.follow flow a).readIf reads f = (s.readIf reads f).follow flow a := by
  cases reads <;> cases flow <;> rfl

theorem State.follow_complete (flow : Flow) (a : Target) (r : Result) :
    (s.follow flow a).complete r = (s.complete r).follow flow a := by cases flow <;> rfl

/-! ### What the rows of R144 have in common -/

theorem classify_dest_of_jump {i : Instr} (h : (classify i).flow = .call ∨ (classify i).flow = .goto) :
    (classify i).dest = .none := by
  cases i <;> simp_all [classify]

theorem classify_readsF_of_onBit {i : Instr} {value : Bool} (h : (classify i).skip = .onBit value) :
    (classify i).readsF = true := by
  cases i <;> simp_all [classify]

theorem classify_inverts_of_writesC {i : Instr} (h : (classify i).writesC = false) :
    (classify i).source.inverts = false := by
  cases i <;> simp_all [classify, ResultClass.inverts]

/-- Only BCF and BSF use the bit index, and only they have the file register as their fixed destination. -/
theorem classify_source_targetBit {i : Instr} (lhs rhs negRhs : Byte) (carryIn : Bool) {b b' : BitIdx}
    (h : (classify i).dest = .file → b = b') :
    (classify i).source.value lhs rhs negRhs b carryIn = (classify i).source.value lhs rhs negRhs b' carryIn ∧
    (classify i).source.rawCarry lhs rhs negRhs b carryIn =
      (classify i).source.rawCarry lhs rhs negRhs b' carryIn := by
  cases i with
  | bcf _ _ | bsf _ _ => cases h rfl; exact ⟨rfl, rfl⟩
  | _ => exact ⟨rfl, rfl⟩

/-- A row that samples PCLATH stores nothing, so the order of the store and the jump does not matter. -/
theorem State.follow_writeResult {i : Instr} (a : Target) (d : Dest) (f : FAddr) (r : Byte) :
    (s.follow (classify i).flow a).writeResult ((classify i).dest.resolve d) f r =
      (s.writeResult ((classify i).dest.resolve d) f r).follow (classify i).flow a := by
  cases hflow : (classify i).flow with
  | call => rw [classify_dest_of_jump (.inl hflow)]; rfl
  | goto => rw [classify_dest_of_jump (.inr hflow)]; rfl
  | next | ret => rcases (classify i).dest.resolve d with _ | _ | _ <;> rfl

end Sys2Proof.Machine

/-! ## The instruction rules are the shared step of R130 -/

namespace Sys2Proof.Machine

/-- What a row of R144 computes for the word `w` in the state `s` once `fv` has been read: the byte, the flags that
the row writes and the skip decision (R136 to R142). -/
def Classification.result (c : Classification) (w : InsnWord) (s : State) (fv : Byte) : Result :=
  let lhs := c.lhs s.w
  let rhs := c.rhs fv (fieldK w)
  let zsig := c.source.zeroSignal w lhs rhs (negate rhs)
  { value := c.source.value lhs rhs (negate rhs) (fieldB w) s.c
    z := if c.writesZ then some zsig else none
    c := if c.writesC then some (c.source.rawCarry lhs rhs (negate rhs) (fieldB w) s.c ^^ c.source.inverts) else none
    skip := c.skip.holds s.bitTestSkip zsig fv (fieldB w) }

/-- The byte that the shared step reads: none, shown as 0, when the row reads no file register (R133). -/
def Classification.readByte (c : Classification) (w : InsnWord) (s : State) : Byte :=
  if c.readsF then s.fileByte (fieldF w) else 0#8

theorem getD_ite_some {α : Type} (b : Bool) (x y : α) :
    (if b then some x else none).getD y = if b then x else y := by
  cases b <;> rfl

variable {w : InsnWord} {c : Classification} {d : Dest} (s : State)

/-- The result of a row depends on the state's W, C and bit-test parameter only. -/
theorem Classification.result_congr {s t : State} (hw : t.w = s.w) (hc : t.c = s.c)
    (hskip : t.bitTestSkip = s.bitTestSkip) (fv : Byte) : c.result w t fv = c.result w s fv := by
  simp only [Classification.result, hw, hc, hskip]

/-- The shared step read off the row: read, write the result, its flags and `pause`, follow the flow (R130). -/
theorem datapathStep_eq (hc : classify (decode w) = c) :
    datapathStep w s =
      let r := c.result w s (c.readByte w s)
      (((s.readIf c.readsF (fieldF w)).writeResult (c.dest.resolve (fieldD w)) (fieldF w) r.value).complete r).follow
        c.flow (fieldA w) := by
  subst hc
  simp only [State.complete, State.setFlags, State.writeResult_z, State.writeResult_c, State.readIf_z, State.readIf_c,
    Classification.result, getD_ite_some]
  rfl

theorem datapathStep_latch : (datapathStep w s).latch = s.latch := by
  rw [datapathStep_eq s rfl]
  simp

theorem datapathStep_withLatch (l : Latches) : datapathStep w (s.withLatch l) = (datapathStep w s).withLatch l := by
  rw [datapathStep_eq _ rfl, datapathStep_eq s rfl]
  simp only [State.readIf_withLatch, State.writeResult_withLatch, State.complete_withLatch, State.follow_withLatch]
  rfl

/-- The shared step does not read `pause`, which its caller has turned into NOP (R130, R142). -/
theorem datapathStep_pause (p : Bool) : datapathStep w { s with pause := p } = datapathStep w s := by
  rw [datapathStep_eq _ rfl, datapathStep_eq s rfl]
  cases (classify (decode w)).readsF <;> rcases DestClass.resolve _ _ with _ | _ | _ <;> rfl

theorem fileOp_eq_datapathStep {result : Byte → Result} (hc : classify (decode w) = c) (hreads : c.readsF = true)
    (hflow : c.flow = .next) (hdest : c.dest.resolve (fieldD w) = some d)
    (hresult : c.result w s (s.fileByte (fieldF w)) = result (s.fileByte (fieldF w))) :
    fileOp (fieldF w) d result s = .next (datapathStep w s) := by
  rw [datapathStep_eq s hc]
  simp only [Classification.readByte, State.readIf, hreads, hflow, hdest, hresult, if_true]
  cases d <;> rfl

theorem storeOp_eq_datapathStep {r : Result} (hc : classify (decode w) = c) (hreads : c.readsF = false)
    (hflow : c.flow = .next) (hdest : c.dest.resolve (fieldD w) = some .f) (hresult : c.result w s 0#8 = r) :
    storeOp (fieldF w) r s = .next (datapathStep w s) := by
  rw [datapathStep_eq s hc]
  simp only [Classification.readByte, State.readIf, hreads, hflow, hdest, Bool.false_eq_true, if_false, hresult]
  rfl

theorem accumulatorOp_eq_datapathStep {r : Result} (hc : classify (decode w) = c) (hreads : c.readsF = false)
    (hflow : c.flow = .next) (hdest : c.dest = .acc) (hresult : c.result w s 0#8 = r) :
    accumulatorOp r s = .next (datapathStep w s) := by
  rw [datapathStep_eq s hc]
  simp only [Classification.readByte, State.readIf, hreads, hflow, hdest, Bool.false_eq_true, if_false, hresult]
  rfl

theorem bitTestOp_eq_datapathStep {skipsOn : Bool}
    (hc : classify (decode w) = ⟨false, true, false, .none, .none, false, false, .next, .onBit skipsOn⟩) :
    bitTestOp (fieldF w) (fieldB w) skipsOn s = .next (datapathStep w s) := by
  rw [datapathStep_eq s hc]
  rfl

/-- A row with no bus access, no result and no flag only follows its flow, with `pause` clear (R141, R142). -/
theorem datapathStep_of_flow_only {flow : Flow}
    (hc : classify (decode w) = ⟨false, false, false, .none, .none, false, false, flow, .never⟩) :
    datapathStep w s = ({ s with pause := false } : State).follow flow (fieldA w) := by
  rw [datapathStep_eq s hc]
  rfl

/-- Only BCF and BSF use the bit index (R118, R135). -/
theorem bitUnit_targetBit {op : BitOp} (hclr : op ≠ .bitclr) (hset : op ≠ .bitset) (v : Byte) (carryIn : Bool)
    (b b' : BitIdx) : bitUnit true op v carryIn b = bitUnit true op v carryIn b' := by
  cases op with
  | bitclr | bitset => contradiction
  | none | rotr | rotl | swap => rfl

/-- The rows of the bit class, at any bit index that the operation cannot tell from the word's (R136, R139). -/
theorem bitFileOp_eq_datapathStep {op : BitOp} {dest : DestClass} {b : BitIdx}
    (hc : classify (decode w) = ⟨false, true, false, .bit op, dest, false, true, .next, .never⟩)
    (hdest : dest.resolve (fieldD w) = some d)
    (hbit : ∀ v, bitUnit true op v s.c (fieldB w) = bitUnit true op v s.c b) :
    fileOp (fieldF w) d (fun fv => bitResult op fv s.c b) s = .next (datapathStep w s) := by
  refine fileOp_eq_datapathStep s hc rfl rfl hdest ?_
  simp [Classification.result, Classification.rhs, ResultClass.value, ResultClass.rawCarry, ResultClass.inverts,
    SkipClass.holds, bitResult, hbit]

/-- The skip signal of COMF compares the operand where its rule compares the result (R190, D33). -/
theorem complement_zeroTested (v : Byte) : (~~~v == 0#8) = (v == 0xFF#8) := by
  rw [Bool.eq_iff_iff, beq_iff_eq, beq_iff_eq]
  constructor <;> intro h <;> bv_omega

/-- The rule of an instruction is the shared step on a word that decodes to it. -/
theorem exec_eq_datapathStep {i : Instr} (hi : decode w = i) (hop : OperandsFrom w i) :
    exec i s = .next (datapathStep w s) := by
  have hc : classify (decode w) = classify i := congrArg classify hi
  cases i with
  | nop | sleep | ret | retfie => rw [datapathStep_of_flow_only s hc]; rfl
  | call _ | goto _ => obtain rfl := hop; rw [datapathStep_of_flow_only s hc]; rfl
  | movwf _ => obtain ⟨rfl, hd⟩ := hop; exact storeOp_eq_datapathStep s hc rfl rfl (congrArg some hd) rfl
  | clrw | clrf _ => exact accumulatorOp_eq_datapathStep s hc rfl rfl rfl rfl
  | subwf _ _ | decf _ _ | iorwf _ _ | andwf _ _ | xorwf _ _ | addwf _ _ | movf _ _ | incf _ _ | decfsz _ _
  | incfsz _ _ => obtain ⟨rfl, rfl⟩ := hop; exact fileOp_eq_datapathStep s hc rfl rfl rfl rfl
  | comf _ _ =>
    obtain ⟨rfl, rfl⟩ := hop
    refine fileOp_eq_datapathStep s (result := fun fv => zeroTested (~~~fv)) hc rfl rfl rfl ?_
    rw [zeroTested, complement_zeroTested]
    rfl
  | rrf _ _ | rlf _ _ | swapf _ _ =>
    obtain ⟨rfl, rfl⟩ := hop
    exact bitFileOp_eq_datapathStep s hc rfl fun v => bitUnit_targetBit (by decide) (by decide) v s.c _ 0#3
  | bcf _ _ | bsf _ _ => obtain ⟨rfl, rfl⟩ := hop; exact bitFileOp_eq_datapathStep s hc rfl fun _ => rfl
  | btfsc _ _ | btfss _ _ => obtain ⟨rfl, rfl⟩ := hop; exact bitTestOp_eq_datapathStep s hc
  | movlw _ | iorlw _ | andlw _ | xorlw _ | sublw _ | addlw _ =>
    obtain rfl := hop; exact accumulatorOp_eq_datapathStep s hc rfl rfl rfl rfl
  | retlw _ => obtain rfl := hop; rw [datapathStep_eq s hc]; rfl

theorem step_eq_datapathStep : step s = .next (datapathStep s.windowWord s.recordFetch) :=
  exec_eq_datapathStep s.recordFetch rfl (decode_operandsFrom s.windowWord)

end Sys2Proof.Machine

/-! ## A window of the cycle schedule is one shared step -/

namespace Sys2Proof.Machine

variable (s : State)

/-! ### Settling a machine whose operand latches are loaded -/

/-- The operand latches hold what the instruction in `IR` computes with, where W is `w` and the byte it reads is
`fv` (R132 to R137, R319, R320). -/
structure Latches.Loaded (l : Latches) (w fv : Byte) : Prop where
  lhs : l.lhs = (classify (decode l.ir)).lhs w
  rhs : l.rhs = (classify (decode l.ir)).rhs fv (fieldK l.ir)
  negRhs : l.negRhs = negate l.rhs
  targetBit : (classify (decode l.ir)).dest = .file → l.targetBit = fieldB l.ir
  skip : l.skip = (classify (decode l.ir)).source.zeroSignal l.ir l.lhs l.rhs l.negRhs

/-- What the instruction in `IR` computes once it has read `fv`. -/
def State.irResult (s : State) (fv : Byte) : Result := s.latchedRow.result s.latch.ir s fv

section Loaded

variable {s} {fv : Byte} (hl : s.latch.Loaded s.w fv)
include hl

theorem latchedResult_of_loaded : s.latchedResult = (s.irResult fv).value := by
  obtain ⟨hlhs, hrhs, hneg, hbit, -⟩ := hl
  rw [State.latchedResult, State.latchedRow, (classify_source_targetBit _ _ _ _ hbit).1, hneg, hlhs, hrhs]
  rfl

theorem committed_z_of_loaded :
    (if s.latchedRow.writesZ then s.latch.skip else s.z) = (s.irResult fv).z.getD s.z := by
  obtain ⟨hlhs, hrhs, hneg, -, hskip⟩ := hl
  rw [hskip, hneg, hlhs, hrhs]
  exact (getD_ite_some _ _ _).symm

/-- A row that does not write C has the invert flag clear, so finalising the carry leaves C alone (R116). -/
theorem finalised_c_of_loaded :
    ((if s.latchedRow.writesC then s.latchedCarry else s.c) ^^ s.latchedRow.source.inverts) =
      (s.irResult fv).c.getD s.c := by
  obtain ⟨hlhs, hrhs, hneg, hbit, -⟩ := hl
  have hcarry : s.latchedCarry = _ := (classify_source_targetBit s.latch.lhs s.latch.rhs s.latch.negRhs s.c hbit).2
  rw [hneg, hlhs, hrhs] at hcarry
  refine Eq.trans ?_ (getD_ite_some _ _ _).symm
  cases hw : s.latchedRow.writesC with
  | true => rw [if_pos rfl, if_pos rfl, hcarry]; rfl
  | false =>
    have hinv : s.latchedRow.source.inverts = false := classify_inverts_of_writesC hw
    rw [hinv, Bool.xor_false]; rfl

/-- The skip condition on the latches is the one on the byte read, since a bit test reads its register (R142). -/
theorem committed_pause_of_loaded (hpause : s.pause = false) :
    (if s.latchedRow.skip = .never then s.pause
      else s.latchedRow.skip.holds s.bitTestSkip s.latch.skip s.latch.rhs (fieldB s.latch.ir)) =
      (s.irResult fv).skip := by
  obtain ⟨hlhs, hrhs, hneg, -, hskip⟩ := hl
  simp only [State.irResult, Classification.result]
  cases hs : s.latchedRow.skip with
  | never => exact hpause
  | onZero => rw [if_neg nofun, hskip, hneg, hlhs, hrhs]; rfl
  | onBit value =>
    have hreads : s.latchedRow.readsF = true := classify_readsF_of_onBit hs
    have hbyte : s.latch.rhs = fv := hrhs.trans (if_pos hreads)
    rw [if_neg nofun, hbyte]
    rfl

/-- A loaded machine with `pause` clear settles by storing what its instruction computes (R130, R315, R316). -/
theorem settle_of_loaded (hpause : s.pause = false) :
    s.settle =
      ((s.writeResult (s.latchedRow.dest.resolve (fieldD s.latch.ir)) (fieldF s.latch.ir)
        (s.irResult fv).value).complete (s.irResult fv)).withLatch Latches.reset := by
  simp only [State.complete, State.setFlags, State.writeResult_z, State.writeResult_c]
  rw [← latchedResult_of_loaded hl, ← committed_z_of_loaded hl, ← finalised_c_of_loaded hl,
    ← committed_pause_of_loaded hl hpause]
  rfl

end Loaded

/-! ### The second half of a window executes the instruction in `IR` -/

theorem phase2_eq :
    s.phase2 = (s.follow s.latchedRow.flow (fieldA s.latch.ir)).withLatch s.phase2.latch := rfl

theorem phase3_eq :
    s.phase3 = (s.readIf s.latch.periphRead s.latch.periphAddr).withLatch s.phase3.latch := rfl

theorem phase3_w : s.phase3.w = s.w := State.readIf_w s s.latch.periphRead s.latch.periphAddr

section Execute

variable (hl : s.latchedRow.readsF = true → s.latch.periphAddr = fieldF s.latch.ir)
include hl

/-- Phases 2 and 3 follow the flow, make the read and reload the latches (R317, R318). -/
theorem phase3_phase2 :
    s.phase2.phase3 =
      ((s.readIf s.latchedRow.readsF (fieldF s.latch.ir)).follow s.latchedRow.flow (fieldA s.latch.ir)).withLatch
        s.phase2.phase3.latch := by
  calc
    s.phase2.phase3 = (s.phase2.readIf s.latchedRow.readsF s.latch.periphAddr).withLatch s.phase2.phase3.latch :=
      phase3_eq s.phase2
    _ = _ := by
      rw [State.readIf_congr _ hl, phase2_eq, State.readIf_withLatch, State.follow_readIf, State.withLatch_withLatch]

/-- Phase 3 leaves the operands of the instruction in `IR` on the latches, the byte read among them. -/
theorem loaded_phase3_phase2 :
    s.phase2.phase3.latch.Loaded s.phase2.phase3.w (s.latchedRow.readByte s.latch.ir s) where
  lhs := congrArg s.latchedRow.lhs (phase3_w s.phase2).symm
  rhs := by
    have hbyte : s.phase2.fileByte (fieldF s.latch.ir) = s.fileByte (fieldF s.latch.ir) :=
      State.follow_fileByte s s.latchedRow.flow (fieldA s.latch.ir) (fieldF s.latch.ir)
    change s.latchedRow.rhs ((if s.latchedRow.readsF then some (s.phase2.fileByte s.latch.periphAddr) else none).getD
      s.phase2.latch.rhs) (fieldK s.latch.ir) = s.latchedRow.rhs _ (fieldK s.latch.ir)
    cases hreads : s.latchedRow.readsF with
    | true => simp [Classification.readByte, hreads, hl hreads, hbyte]
    | false => simp [Classification.rhs, hreads]
  negRhs := rfl
  targetBit h := if_pos h
  skip := rfl

theorem irResult_phase3_phase2 (fv : Byte) : s.phase2.phase3.irResult fv = s.irResult fv := by
  have hu := phase3_phase2 s hl
  exact Classification.result_congr (by rw [hu]; simp) (by rw [hu]; simp) (by rw [hu]; simp) fv

/-- The state after phases 2 and 3 settles to the shared step of the instruction in `IR`: the store and the flags of
R130 do not mind that the flow of R141 went before them. -/
theorem settle_phase3_phase2 (hpause : s.pause = false) :
    s.phase2.phase3.settle = (datapathStep s.latch.ir s).withLatch Latches.reset := by
  have hu := phase3_phase2 s hl
  have hupause : s.phase2.phase3.pause = false := by rw [hu]; simpa using hpause
  let r := s.irResult (s.latchedRow.readByte s.latch.ir s)
  calc
    s.phase2.phase3.settle =
        ((s.phase2.phase3.writeResult (s.latchedRow.dest.resolve (fieldD s.latch.ir)) (fieldF s.latch.ir)
          r.value).complete r).withLatch Latches.reset := by
      rw [settle_of_loaded (loaded_phase3_phase2 s hl) hupause, irResult_phase3_phase2 s hl]
      rfl
    _ = _ := by
      rw [hu, State.writeResult_withLatch, State.complete_withLatch, State.withLatch_withLatch, State.latchedRow,
        State.follow_writeResult, State.follow_complete, datapathStep_eq s rfl]
      rfl

end Execute

/-! ### The first half of a window settles the state and fetches -/

theorem clock_of_phase0 {s : State} (h : s.latch.phase = 0#2) : clock s = s.phase0 := if_pos h

theorem clock_phase0 : clock s.phase0 = s.phase0.phase1 := rfl
theorem clock_phase1 : clock s.phase1 = s.phase1.phase2 := rfl
theorem clock_phase2 : clock s.phase2 = s.phase2.phase3 := rfl

theorem window_eq {s : State} (h : s.latch.phase = 0#2) : window s = s.phase0.phase1.phase2.phase3 := by
  rw [window, clock_of_phase0 h, clock_phase0, clock_phase1, clock_phase2]

theorem window_phase {s : State} (h : s.latch.phase = 0#2) : (window s).latch.phase = 0#2 := by
  rw [window_eq h]
  rfl

theorem phase1_phase0 :
    s.phase0.phase1 =
      ({ s.settle.recordFetch with pause := false } : State).withLatch s.phase0.phase1.latch := rfl

theorem phase1_phase0_ir : s.phase0.phase1.latch.ir = s.settle.windowWord := rfl

/-- Phase 1 puts the address of a read on the bus; a paused window runs NOP, which reads nothing (R142, R316). -/
theorem phase1_periphAddr (hreads : s.phase1.latchedRow.readsF = true) :
    s.phase1.latch.periphAddr = fieldF s.phase1.latch.ir := by
  have hir : s.phase1.latch.ir = if s.pause then 0x0000#14 else s.fetchWord := rfl
  have haddr : s.phase1.latch.periphAddr = if s.pause then s.latch.periphAddr else fieldF s.fetchWord := rfl
  rw [State.latchedRow, hir] at hreads
  rw [hir, haddr]
  cases hp : s.pause with
  | true =>
    rw [hp, if_pos rfl, decode_zero] at hreads
    cases hreads
  | false => rfl

/-- A window, settled, is one step of the settled state: its first half settles what is pending and fetches, its second
half executes what was fetched (R8, R314). -/
theorem step_settle {s : State} (h : s.latch.phase = 0#2) : step s.settle = .next (window s).settle := by
  have hfetch : datapathStep s.settle.windowWord s.phase0.phase1 =
      (datapathStep s.settle.windowWord s.settle.recordFetch).withLatch s.phase0.phase1.latch := by
    rw [phase1_phase0, datapathStep_withLatch, datapathStep_pause]
    rfl
  have hlatch : (datapathStep s.settle.windowWord s.settle.recordFetch).latch = Latches.reset :=
    datapathStep_latch s.settle.recordFetch
  rw [window_eq h, settle_phase3_phase2 s.phase0.phase1 (phase1_periphAddr s.phase0) rfl, phase1_phase0_ir, hfetch,
    State.withLatch_withLatch, ← hlatch, State.withLatch_self, step_eq_datapathStep]

theorem run_succ_of_step {M : Host.Core} {s t : M.State} (h : M.step s = .next t) (n : Nat) :
    M.run (n + 1) s = M.run n t := by
  rw [Host.Core.run, h]

theorem run_settle (n : Nat) : ∀ s : State, s.latch.phase = 0#2 →
    Host.Core.run core n s.settle = .next (windows n s).settle := by
  induction n with
  | zero => exact fun _ _ => rfl
  | succ n ih =>
    intro s h
    exact (run_succ_of_step (M := core) (step_settle h) n).trans (ih (window s) (window_phase h))

/-- With the latches at reset `IR` holds NOP, which leaves nothing to commit (R36). -/
theorem settle_of_idle {s : State} (h : Idle s) : s.settle = s := by
  have hrow : s.latchedRow = classify .nop := by rw [State.latchedRow, h]; rfl
  have hlatch : s.latch = Latches.reset := h
  simp [State.settle, State.commit, hrow, classify, DestClass.resolve, State.writeResult, ResultClass.inverts,
    ← hlatch]

/-- Settles O59: by induction on the windows, each of which is one step of the settled state (`step_settle`): its first
two clocks commit what is pending and fetch, the other two load what the shared step of R130 computes. -/
theorem windowsRefineSteps : Obligations.WindowsRefineSteps :=
  ⟨run_settle, fun _ => settle_of_idle⟩

end Sys2Proof.Machine
end

section

/-! ## What an instruction does to the state, said once -/

namespace Sys2Proof.Machine

/-- What an instruction computes from W, C, the byte it reads and the bit-test parameter: the byte, the flags it writes
and whether it skips (R136 to R142). An instruction without a result has the byte 0, which it puts nowhere. -/
def instrResult (i : Instr) (w : Byte) (c : Bool) (fv : Byte) (bitTestSkip : Bool) : Result :=
  match i with
  | .nop | .ret | .retfie | .sleep | .call _ | .goto _ => plainResult 0#8
  | .btfsc _ b => { plainResult 0#8 with skip := bitTestSkip && fv.getLsbD b.toNat == false }
  | .btfss _ b => { plainResult 0#8 with skip := bitTestSkip && fv.getLsbD b.toNat == true }
  | .movwf _ => plainResult w
  | .movlw k | .retlw k => plainResult k
  | .clrw | .clrf _ => zeroTested 0#8
  | .movf _ _ => zeroTested fv
  | .comf _ _ => zeroTested (~~~fv)
  | .subwf _ _ => arithResult .sub w fv
  | .addwf _ _ => arithResult .add w fv
  | .decf _ _ => arithResult .dec 0#8 fv
  | .incf _ _ => arithResult .inc 0#8 fv
  | .decfsz _ _ => arithSkipResult .dec fv
  | .incfsz _ _ => arithSkipResult .inc fv
  | .iorwf _ _ => logicResult .or w fv
  | .andwf _ _ => logicResult .and w fv
  | .xorwf _ _ => logicResult .xor w fv
  | .rrf _ _ => bitResult .rotr fv c 0#3
  | .rlf _ _ => bitResult .rotl fv c 0#3
  | .swapf _ _ => bitResult .swap fv c 0#3
  | .bcf _ b => bitResult .bitclr fv c b
  | .bsf _ b => bitResult .bitset fv c b
  | .iorlw k => logicResult .or w k
  | .andlw k => logicResult .and w k
  | .xorlw k => logicResult .xor w k
  | .sublw k => arithResult .sub w k
  | .addlw k => arithResult .add w k

/-- The result of an instruction in a state; where it reads no file register the byte read counts as 0 (R133). -/
def State.resultOf (s : State) (i : Instr) : Result :=
  instrResult i s.w s.c ((readsFrom i).elim 0#8 s.fileByte) s.bitTestSkip

/-- The state after an instruction with the result `r`, field by field: where the result and the events go is in
`writesW`, `storesTo` and `readsFrom`, the flow in `nextPc` and `stackUse`. -/
def State.after (s : State) (i : Instr) (r : Result) : State :=
  { s with
    w := if writesW i then r.value else s.w
    z := r.z.getD s.z
    c := r.c.getD s.c
    pause := r.skip
    pc := nextPc i s
    stack := match stackUse i with
      | some true => s.stack.set s.count.toNat (s.pc + 1#12) s.count.isLt
      | some false | none => s.stack
    count := match stackUse i with
      | some true => s.count + 1#3
      | some false => s.count - 1#3
      | none => s.count
    file := (storesTo i).elim s.file fun f => (s.memWrite f r.value).file
    pclath := (storesTo i).elim s.pclath fun f => (s.memWrite f r.value).pclath
    bus := ((storesTo i).map fun f => .write f r.value).toList ++
      ((readsFrom i).map fun f => .read f (s.fileByte f)).toList ++ s.bus }

/-- Every instruction is the same function of its result and its sets; only the `d` of a file operation chooses between
two of its shapes (R130, R131). -/
theorem exec_eq_after (i : Instr) (s : State) : exec i s = .next (s.after i (s.resultOf i)) := by
  cases i with
  | subwf _ d | decf _ d | iorwf _ d | andwf _ d | xorwf _ d | addwf _ d | movf _ d | comf _ d | incf _ d | decfsz _ d
  | rrf _ d | rlf _ d | swapf _ d | incfsz _ d => cases d <;> rfl
  | _ => rfl

theorem eq_after_of_exec {i : Instr} {s t : State} (h : exec i s = .next t) : t = s.after i (s.resultOf i) := by
  rw [exec_eq_after] at h
  cases h
  rfl

/-! ### What the result writes, and on what it depends -/

theorem resultOf_z_isSome (i : Instr) (s : State) : (s.resultOf i).z.isSome = writesZ i := by cases i <;> rfl

theorem resultOf_c_isSome (i : Instr) (s : State) : (s.resultOf i).c.isSome = writesC i := by cases i <;> rfl

theorem maySkip_of_resultOf_skip {i : Instr} {s : State} (h : (s.resultOf i).skip = true) :
    maySkip s.bitTestSkip i = true := by
  cases i with
  | incfsz _ _ | decfsz _ _ => rfl
  | btfsc _ _ | btfss _ _ => exact (Bool.and_eq_true_iff.mp h).1
  | _ => cases h

/-- SWAPF, BCF and BSF hand C to the bit unit, which uses its carry-in for the rotates alone (R118). -/
theorem resultOf_withC {i : Instr} (h : readsC i = false) (s : State) (c : Bool) :
    (withC s c).resultOf i = s.resultOf i := by
  cases i with
  | rrf _ _ | rlf _ _ => cases h
  | _ => rfl

theorem getD_of_isSome_eq_false {α : Type} {o : Option α} (h : o.isSome = false) (x : α) : o.getD x = x := by
  rw [Option.isSome_eq_false_iff, Option.isNone_iff_eq_none] at h
  rw [h, Option.getD_none]

end Sys2Proof.Machine

/-! ## Frames -/

namespace Sys2Proof.Machine

/-- Settles O8: `pause` is the skip decision of the result. -/
theorem onlySkipInstructionsPause : Obligations.OnlySkipInstructionsPause := by
  intro i s t h hpause
  obtain rfl := eq_after_of_exec h
  exact maySkip_of_resultOf_skip hpause

/-- Settles O38: the PC is `nextPc`, and each of the three stack uses says what it does to slots and count. -/
theorem nextPcAndStack : Obligations.NextPcAndStack := by
  intro i s t h
  obtain rfl := eq_after_of_exec h
  refine ⟨rfl, ?_⟩
  simp only [State.after]
  rcases stackUse i with _ | _ | _ <;> exact ⟨rfl, rfl⟩

/-- Settles O39: W takes the result only under `writesW`, and a flag outside `writesZ` or `writesC` is missing from the
result. -/
theorem registersAndFlagsFrame : Obligations.RegistersAndFlagsFrame := by
  intro i s t h
  obtain rfl := eq_after_of_exec h
  refine ⟨fun hw => ?_, fun hz => ?_, fun hc => ?_⟩
  · simp [State.after, hw]
  · exact getD_of_isSome_eq_false ((resultOf_z_isSome i s).trans hz) s.z
  · exact getD_of_isSome_eq_false ((resultOf_c_isSome i s).trans hc) s.c

theorem memWrite_file_of_port {s : State} {f : FAddr} (v : Byte) (h : f ∈ s.ports) :
    (s.memWrite f v).file = s.file := by
  rw [State.memWrite_file, if_pos (List.contains_iff_mem.mpr h)]

theorem read_memWrite_other {s : State} {f g : FAddr} (v : Byte) (h : g ≠ f) :
    Memory.read (s.memWrite f v).file g.toNat = Memory.read s.file g.toNat := by
  rw [State.memWrite_file]
  split
  · rfl
  · exact Memory.read_write_other v s.file (mt BitVec.eq_of_toNat_eq h)

section After

variable {i : Instr} {s : State} (r : Result)

theorem after_file : (s.after i r).file = (storesTo i).elim s.file fun f => (s.memWrite f r.value).file := rfl

theorem after_pclath : (s.after i r).pclath =
    (storesTo i).elim s.pclath fun f => if s.pageSelect = some f then r.value else s.pclath := rfl

theorem read_after_other {f : FAddr} (h : storesTo i ≠ some f) :
    Memory.read (s.after i r).file f.toNat = Memory.read s.file f.toNat := by
  rw [after_file]
  cases hi : storesTo i with
  | none => rfl
  | some g => exact read_memWrite_other r.value fun hfg => h (hfg ▸ hi)

theorem read_after_port {f : FAddr} (h : f ∈ s.ports) :
    Memory.read (s.after i r).file f.toNat = Memory.read s.file f.toNat := by
  by_cases hi : storesTo i = some f
  · rw [after_file, hi, Option.elim_some, memWrite_file_of_port r.value h]
  · exact read_after_other r hi

theorem after_pclath_of_not_pageSelect (h : storesTo i = none ∨ storesTo i ≠ s.pageSelect) :
    (s.after i r).pclath = s.pclath := by
  rw [after_pclath]
  cases hi : storesTo i with
  | none => rfl
  | some f =>
    have hne : storesTo i ≠ s.pageSelect := h.resolve_left (hi ▸ nofun)
    exact if_neg fun hf => hne (hi.trans hf.symm)

theorem after_memoriesWf (h : s.memoriesWf = true) : (s.after i r).memoriesWf = true := by
  rw [State.memoriesWf, after_file]
  cases storesTo i with
  | none => exact h
  | some f => exact State.memWrite_memoriesWf f r.value h

end After

/-- Settles O40: the one place an instruction stores to is `storesTo`, and a port keeps nothing. -/
theorem onlyStoredByteChanges : Obligations.OnlyStoredByteChanges := by
  intro i s t h
  obtain rfl := eq_after_of_exec h
  exact ⟨fun _ => read_after_other _, fun _ => read_after_port _, after_pclath_of_not_pageSelect _⟩

/-- Settles O44: by induction on the run, since no instruction has any of these fields among those it changes. -/
theorem runsKeepProgramAndPlatform : Obligations.RunsKeepProgramAndPlatform := by
  intro s t h
  induction h with
  | refl => exact ⟨rfl, rfl, rfl, rfl, rfl⟩
  | tail _ hstep ih =>
    obtain rfl := eq_after_of_exec hstep
    exact ih

/-- Settles O45: an instruction changes no memory but by a peripheral write, and no latch. -/
theorem stepKeepsCanonicalForm : Obligations.StepKeepsCanonicalForm := by
  intro s t hcanonical hidle hstep
  obtain rfl := eq_after_of_exec hstep
  exact ⟨after_memoriesWf (s := s.recordFetch) _ hcanonical, hidle⟩

/-- Settles O46: both memories are empty at reset. -/
theorem resetIsCanonical : Obligations.ResetIsCanonical := ⟨rfl, rfl⟩

/-- Settles O51: every slot is the replicated zero, and the latches are `Latches.reset`. -/
theorem resetZeroesTheCore : Obligations.ResetZeroesTheCore := by
  have hslot (i : Nat) (h : i < 8) : State.reset.stack[i]'h = 0#12 := Vector.getElem_replicate h
  refine ⟨rfl, rfl, rfl, rfl, rfl, hslot, rfl, ?_⟩
  rw [show State.reset.latch = Latches.reset from rfl]
  decide

end Sys2Proof.Machine

/-! ## What no instruction reads -/

namespace Sys2Proof.Machine

/-! ### Z -/

/-- No field after an instruction depends on Z but Z itself (R27). -/
theorem after_withZ (i : Instr) (s : State) (z : Bool) (r : Result) :
    (withZ s z).after i r = withZ (s.after i r) (r.z.getD z) := rfl

theorem exec_withZ (i : Instr) (s : State) (z : Bool) :
    ∃ t z', exec i s = .next t ∧ exec i (withZ s z) = .next (withZ t z') :=
  ⟨_, _, exec_eq_after i s, exec_eq_after i (withZ s z)⟩

/-- The fetch does not depend on Z either. -/
theorem step_withZ (s : State) (z : Bool) :
    ∃ t z', step s = .next t ∧ step (withZ s z) = .next (withZ t z') :=
  exec_withZ (decode s.windowWord) s.recordFetch z

theorem run_withZ (n : Nat) : ∀ {s t : State} (z : Bool), Host.Core.run core n s = .next t →
    ∃ z', Host.Core.run core n (withZ s z) = .next (withZ t z') := by
  induction n with
  | zero =>
    intro s t z h
    cases h
    exact ⟨z, rfl⟩
  | succ n ih =>
    intro s t z h
    obtain ⟨u, z', hu, hu'⟩ := step_withZ s z
    rw [run_succ_of_step (M := core) hu] at h
    rw [run_succ_of_step (M := core) hu']
    exact ih z' h

/-- Settles O47: by induction on the run, that the two runs stay equal up to Z (`run_withZ`). -/
theorem zeroFlagIsUnobservable : Obligations.ZeroFlagIsUnobservable := by
  intro n s z t h
  obtain ⟨z', h'⟩ := run_withZ n z h
  exact ⟨withZ t z', h', rfl⟩

/-! ### C -/

theorem after_withC (i : Instr) (s : State) (c : Bool) (r : Result) :
    (withC s c).after i r = withC (s.after i r) (r.c.getD c) := rfl

/-- Settles O48: the result does not depend on C, and it holds a carry exactly for a writer of C. -/
theorem onlyRotatesReadCarry : Obligations.OnlyRotatesReadCarry := by
  intro i s c t hreads h
  obtain rfl := eq_after_of_exec h
  have hcarry : (s.resultOf i).c.getD c = if writesC i then (s.after i (s.resultOf i)).c else c := by
    rw [← resultOf_c_isSome i s, State.after]
    cases (s.resultOf i).c <;> rfl
  rw [exec_eq_after, resultOf_withC hreads, after_withC, hcarry]

/-! ### PCLATH -/

/-- Of PCLATH the next PC takes bit 3 alone (R141). -/
theorem nextPc_pclath {i : Instr} {s : State} {v : Byte} (h : v.getLsbD 3 = s.pclath.getLsbD 3) :
    nextPc i { s with pclath := v } = nextPc i s := by
  cases i with
  | call a | goto a => exact congrArg (BitVec.ofBool · ++ a) h
  | _ => rfl

theorem after_withPclath (i : Instr) {s : State} {v : Byte} (r : Result) (h : v.getLsbD 3 = s.pclath.getLsbD 3) :
    State.after { s with pclath := v } i r = { s.after i r with
      pclath := if storesTo i ≠ none ∧ storesTo i = s.pageSelect then (s.after i r).pclath else v } := by
  have hpclath : (State.after { s with pclath := v } i r).pclath =
      if storesTo i ≠ none ∧ storesTo i = s.pageSelect then (s.after i r).pclath else v := by
    rw [after_pclath, after_pclath]
    cases storesTo i with
    | none => rfl
    | some f => by_cases hf : s.pageSelect = some f <;> simp [hf, eq_comm (a := some f)]
  rw [← hpclath, State.after, nextPc_pclath h]
  rfl

/-- Settles O49: PCLATH enters an instruction through bit 3 of the next PC alone and stands where nothing is stored to
the page-select register (`after_withPclath`). -/
theorem onlyPclathBitThreeMatters : Obligations.OnlyPclathBitThreeMatters := by
  intro i s v t hbit h
  obtain rfl := eq_after_of_exec h
  rw [exec_eq_after]
  exact congrArg _ (after_withPclath i (s.resultOf i) hbit)

end Sys2Proof.Machine

/-! ## One window, one fetch -/

namespace Sys2Proof.Machine

variable (s : State)

/-- The fetches among bus events (R53). -/
def fetchesOf (bus : List BusEvent) : List BusEvent := bus.filter fun e => e matches .fetch _ _

theorem clock_phase : (clock s).latch.phase = s.latch.phase + 1#2 := by
  have hcases : ∀ p : BitVec 2, p = 0#2 ∨ p = 1#2 ∨ p = 2#2 ∨ p = 3#2 := by decide
  obtain h | h | h | h := hcases s.latch.phase <;> simp only [clock, h] <;> rfl

theorem fetchesOf_writeResult (dest : Option Dest) (f : FAddr) (v : Byte) :
    fetchesOf (s.writeResult dest f v).bus = fetchesOf s.bus := by rcases dest with _ | _ | _ <;> rfl

theorem fetchesOf_readIf (reads : Bool) (f : FAddr) : fetchesOf (s.readIf reads f).bus = fetchesOf s.bus := by
  cases reads <;> rfl

@[simp] theorem State.follow_bus (flow : Flow) (a : Target) : (s.follow flow a).bus = s.bus := by cases flow <;> rfl

@[simp] theorem State.writeResult_pc (dest : Option Dest) (f : FAddr) (v : Byte) :
    (s.writeResult dest f v).pc = s.pc := by
  rcases dest with _ | _ | _ <;> rfl

@[simp] theorem State.writeResult_prog (dest : Option Dest) (f : FAddr) (v : Byte) :
    (s.writeResult dest f v).prog = s.prog := by
  rcases dest with _ | _ | _ <;> rfl

theorem fetchesOf_phase0 : fetchesOf s.phase0.bus = fetchesOf s.bus := fetchesOf_writeResult s _ _ _

theorem phase0_pc : s.phase0.pc = s.pc := State.writeResult_pc s _ _ _

theorem phase0_prog : s.phase0.prog = s.prog := State.writeResult_prog s _ _ _

theorem phase0_fetchWord : s.phase0.fetchWord = s.fetchWord := by
  rw [State.fetchWord, phase0_pc, phase0_prog, State.fetchWord]

theorem fetchesOf_phase1 : fetchesOf s.phase1.bus = .fetch s.pc s.fetchWord :: fetchesOf s.bus := rfl

theorem fetchesOf_phase2 : fetchesOf s.phase2.bus = fetchesOf s.bus := congrArg fetchesOf (State.follow_bus s _ _)

theorem fetchesOf_phase3 : fetchesOf s.phase3.bus = fetchesOf s.bus := fetchesOf_readIf s _ _

theorem fetchesOf_window {s : State} (h : s.latch.phase = 0#2) :
    fetchesOf (window s).bus = .fetch s.pc s.fetchWord :: fetchesOf s.bus := by
  calc
    fetchesOf (window s).bus = fetchesOf s.phase0.phase1.bus := by
      rw [window_eq h, fetchesOf_phase3, fetchesOf_phase2]
    _ = .fetch s.phase0.pc s.phase0.fetchWord :: fetchesOf s.phase0.bus := fetchesOf_phase1 s.phase0
    _ = _ := by rw [phase0_pc, phase0_fetchWord, fetchesOf_phase0]

/-- Settles O53: each phase names the next one, and of the four only phase 1 makes a fetch, at the PC that phase 0 has
left alone (`fetchesOf_window`). -/
theorem phaseCounterFreeRuns : Obligations.PhaseCounterFreeRuns :=
  ⟨clock_phase, fun _ => fetchesOf_window⟩

end Sys2Proof.Machine

end

section

/-! ## Plain memory and the window's word -/

namespace Sys2Proof.Machine

/-- A location that is no port answers its byte (R56, R66). -/
theorem fileByte_of_not_port {s : State} {f : FAddr} (h : f ∉ s.ports) : s.fileByte f = Memory.read s.file f.toNat := by
  rw [State.fileByte, if_neg (mt List.contains_iff_mem.mp h)]

theorem read_memWrite_self {s : State} {f : FAddr} (v : Byte) (hs : Canonical s) (hf : f ∉ s.ports) :
    Memory.read (s.memWrite f v).file f.toNat = v := by
  have hfile : Memory.wf fileSize s.file = true := (Bool.and_eq_true_iff.mp hs).2
  rw [State.memWrite_file, if_neg (mt List.contains_iff_mem.mp hf), Memory.read_write_self v hfile]

/-- Settles O41: both locations are plain memory after the write too, which holds the byte at the one address and
leaves the other alone. -/
theorem storedByteReadsBack : Obligations.StoredByteReadsBack := by
  intro s f v hs hf
  refine ⟨?_, fun g hgf hg => ?_⟩
  · rw [fileByte_of_not_port (s := s.memWrite f v) hf, read_memWrite_self v hs hf]
  · rw [fileByte_of_not_port (s := s.memWrite f v) hg, fileByte_of_not_port hg, read_memWrite_other v hgf]

theorem windowWord_of_not_paused {s : State} (h : s.pause = false) : s.windowWord = s.fetchWord := by
  rw [State.windowWord, h, if_neg Bool.false_ne_true]

theorem step_of_not_paused {s : State} (h : s.pause = false) :
    step s = exec (decode s.fetchWord) s.recordFetch := by
  rw [step, windowWord_of_not_paused h]

/-- Settles O5: the window's word is the fetched one. -/
theorem stepRunsDecodedInstruction : Obligations.StepRunsDecodedInstruction := by
  rintro s _ hpause rfl
  exact step_of_not_paused hpause

end Sys2Proof.Machine

/-! ## What an instruction puts on the peripheral bus -/

namespace Sys2Proof.Machine

/-! ### The arithmetic unit's byte in closed form (R111 to R114): bits 7:0 of the 9-bit sum -/

theorem arithValue_eq (op : ArithOp) (lhs rhs : Byte) :
    arithValue op lhs rhs = effLhs op lhs + effRhs op rhs (negate rhs) := by
  have hsum (x y : Byte) : (x.setWidth 9 + y.setWidth 9).setWidth 8 = x + y := by bv_omega
  exact hsum _ _

theorem arithValue_add (lhs rhs : Byte) : arithValue .add lhs rhs = lhs + rhs := arithValue_eq .add lhs rhs

theorem arithValue_sub (lhs rhs : Byte) : arithValue .sub lhs rhs = lhs - rhs := by
  rw [arithValue_eq, effLhs, effRhs, negate, ← BitVec.neg_eq_not_add, ← BitVec.sub_eq_add_neg]

theorem arithValue_inc (lhs rhs : Byte) : arithValue .inc lhs rhs = rhs + 1#8 := by
  rw [arithValue_eq, effLhs, effRhs, BitVec.add_comm]

/-- DEC adds 0xFF, which is minus 1. -/
theorem arithValue_dec (lhs rhs : Byte) : arithValue .dec lhs rhs = rhs - 1#8 := by
  rw [arithValue_eq, effLhs, effRhs, BitVec.add_comm, BitVec.sub_eq_add_neg]
  rfl

/-- The result of an instruction that stores is the byte of its rule (R136). -/
theorem resultOf_value_of_storesTo {i : Instr} {f : FAddr} (h : storesTo i = some f) (s : State) :
    (s.resultOf i).value = storedByte i s := by
  cases i with
  | subwf g _ => exact arithValue_sub s.w (s.fileByte g)
  | addwf g _ => exact arithValue_add s.w (s.fileByte g)
  | decf g _ | decfsz g _ => exact arithValue_dec 0#8 (s.fileByte g)
  | incf g _ | incfsz g _ => exact arithValue_inc 0#8 (s.fileByte g)
  | movwf _ | iorwf _ _ | andwf _ _ | xorwf _ _ | movf _ _ | comf _ _ | rrf _ _ | rlf _ _ | swapf _ _ | bcf _ _
  | bsf _ _ => rfl
  | _ => cases h

/-- The write event of an instruction with the result `r`, if it stores (R57). -/
def writeEvents (i : Instr) (r : Result) : List BusEvent := ((storesTo i).map fun f => .write f r.value).toList

/-- The read event of an instruction in the state `s`, if it reads a file register (R56). -/
def readEvents (i : Instr) (s : State) : List BusEvent := ((readsFrom i).map fun f => .read f (s.fileByte f)).toList

theorem after_bus (i : Instr) (s : State) (r : Result) :
    (s.after i r).bus = writeEvents i r ++ readEvents i s ++ s.bus := rfl

/-- Settles O42: the write is the newest event of the instruction, it carries the byte of the rule
(`resultOf_value_of_storesTo`), and plain memory keeps it. -/
theorem storeReachesItsAddress : Obligations.StoreReachesItsAddress := by
  intro i s t f h hi
  obtain rfl := eq_after_of_exec h
  rw [← resultOf_value_of_storesTo hi s]
  refine ⟨⟨readEvents i s ++ s.bus, ?_⟩, fun hs hf => ?_⟩
  · rw [after_bus, writeEvents, hi]
    rfl
  · rw [after_file, hi]
    exact read_memWrite_self _ hs hf

/-- Settles O43: the instruction puts its events on top of the fetch (`after_bus`), and each of them is there exactly
when `readsFrom` or `storesTo` names an address. -/
theorem stepBusEvents : Obligations.StepBusEvents := by
  intro s t hpause hstep
  rw [step_of_not_paused hpause] at hstep
  obtain rfl := eq_after_of_exec hstep
  refine ⟨writeEvents _ _, readEvents _ _, after_bus _ s.recordFetch _, ?_, ?_⟩
  · rw [readEvents]
    cases readsFrom (decode s.fetchWord) <;> rfl
  · rw [writeEvents]
    cases storesTo (decode s.fetchWord) with
    | none => rfl
    | some f => exact ⟨_, rfl⟩

/-- What MOVWF stores to the page-select register is at PCLATH at once (R68). -/
theorem after_movwf_pclath {s : State} {f : FAddr} (h : s.pageSelect = some f) :
    (s.after (.movwf f) (s.resultOf (.movwf f))).pclath = s.w := by
  rw [after_pclath, storesTo, Option.elim_some, if_pos h]
  rfl

/-- Settles O50: the jump samples PCLATH after the store. -/
theorem pageSelectWriteReachesJump : Obligations.PageSelectWriteReachesJump := by
  intro s f a h
  have hpclath := after_movwf_pclath h
  refine ⟨_, _, _, exec_eq_after _ s, exec_eq_after (.goto a) _, ?_, exec_eq_after (.call a) _, ?_⟩ <;>
    exact congrArg (fun v : Byte => BitVec.ofBool (v.getLsbD 3) ++ a) hpclath

end Sys2Proof.Machine

end

section

/-! ## Decoding by the row that accepts the word -/

namespace Sys2Proof

/-! ### The rows are disjoint, so at most one accepts a word (R85) -/

/-- The first row that accepts heads the list of all that do. -/
theorem decodeBy_eq_accepting_head (rows : List DecodeRow) (w : InsnWord) :
    decodeBy rows w = (rows.filter (·.accepts w)).head?.elim .nop (·.build w) := by
  rw [List.head?_filter, decodeBy]
  cases rows.find? (·.accepts w) <;> rfl

/-- Any two rows ask for different values of a bit that both look at. -/
theorem decodeTable_conflicting :
    decodeTable.Pairwise fun r r' => r.value &&& r'.mask ≠ r'.value &&& r.mask := by decide

theorem agree_of_accepts {r r' : DecodeRow} {w : InsnWord} (h : r.accepts w = true) (h' : r'.accepts w = true) :
    r.value &&& r'.mask = r'.value &&& r.mask := by
  rw [← beq_iff_eq.mp h, ← beq_iff_eq.mp h', BitVec.and_assoc, BitVec.and_assoc, BitVec.and_comm r.mask]

theorem accepting_nil_or_singleton (w : InsnWord) :
    decodeTable.filter (·.accepts w) = [] ∨ ∃ r, decodeTable.filter (·.accepts w) = [r] := by
  have hdisjoint : (decodeTable.filter (·.accepts w)).Pairwise fun _ _ => False :=
    List.pairwise_filter.mpr (decodeTable_conflicting.imp fun hne h h' => hne (agree_of_accepts h h'))
  match h : decodeTable.filter (·.accepts w) with
  | [] => exact .inl h
  | [r] => exact .inr ⟨r, h⟩
  | r :: r' :: _ =>
    rw [h] at hdisjoint
    exact (List.rel_of_pairwise_cons hdisjoint List.mem_cons_self).elim

theorem accepting_eq_of_perm {rows : List DecodeRow} (h : rows.Perm decodeTable) (w : InsnWord) :
    rows.filter (·.accepts w) = decodeTable.filter (·.accepts w) := by
  have hperm := h.filter (·.accepts w)
  obtain hnil | ⟨r, hr⟩ := accepting_nil_or_singleton w
  · rw [hnil] at hperm ⊢
    exact List.perm_nil.mp hperm
  · rw [hr] at hperm ⊢
    exact List.perm_singleton.mp hperm

/-- Settles O3: two rows conflict (`decodeTable_conflicting`), and a decoder sees its rows only through the list of
those that accept, which has no order left. -/
theorem decodeRowsAreDisjoint : Obligations.DecodeRowsAreDisjoint := by
  refine ⟨fun w => ?_, fun rows hperm w => ?_⟩
  · obtain h | ⟨r, h⟩ := accepting_nil_or_singleton w <;> simp [h]
  · rw [decode, decodeBy_eq_accepting_head, decodeBy_eq_accepting_head, accepting_eq_of_perm hperm]

/-! ### The round trip (R83, R91) -/

theorem decode_of_accepts {r : DecodeRow} {w : InsnWord} (hr : r ∈ decodeTable) (h : r.accepts w = true) :
    decode w = r.build w := by
  have hmem : r ∈ decodeTable.filter (·.accepts w) := List.mem_filter.mpr ⟨hr, h⟩
  rw [decode, decodeBy_eq_accepting_head]
  obtain hnil | ⟨r', hr'⟩ := accepting_nil_or_singleton w
  · rw [hnil] at hmem
    cases hmem
  · rw [hr'] at hmem ⊢
    obtain rfl := List.mem_singleton.mp hmem
    rfl

namespace Laws.EncodesInTable

theorem of_instr : ∀ i, Statement i
  | .nop => nop
  | .ret => ret
  | .retfie => retfie
  | .sleep => sleep
  | .movwf f => movwf f
  | .clrw => clrw
  | .clrf f => clrf f
  | .subwf f d => subwf f d
  | .decf f d => decf f d
  | .iorwf f d => iorwf f d
  | .andwf f d => andwf f d
  | .xorwf f d => xorwf f d
  | .addwf f d => addwf f d
  | .movf f d => movf f d
  | .comf f d => comf f d
  | .incf f d => incf f d
  | .decfsz f d => decfsz f d
  | .rrf f d => rrf f d
  | .rlf f d => rlf f d
  | .swapf f d => swapf f d
  | .incfsz f d => incfsz f d
  | .bcf f b => bcf f b
  | .bsf f b => bsf f b
  | .btfsc f b => btfsc f b
  | .btfss f b => btfss f b
  | .call a => call a
  | .goto a => goto a
  | .movlw k => movlw k
  | .retlw k => retlw k
  | .iorlw k => iorlw k
  | .andlw k => andlw k
  | .xorlw k => xorlw k
  | .sublw k => sublw k
  | .addlw k => addlw k

end Laws.EncodesInTable

/-- Settles O2: the row that accepts the instruction's word and builds it back is the only one that accepts it. -/
theorem decodeInvertsEncode : Obligations.DecodeInvertsEncode := by
  intro i
  obtain ⟨r, hr, haccepts, hbuild⟩ := Laws.EncodesInTable.of_instr i
  rw [decode_of_accepts hr haccepts, hbuild]

/-- Settles O1: each word is a literal. -/
theorem specWordsDecode : Obligations.SpecWordsDecode := by
  unfold Obligations.SpecWordsDecode
  decide

/-! ### The reserved words (R86), by their high seven bits -/

theorem decode_of_reserved {w : InsnWord} (h : reserved w = true) : decode w = .nop := by
  have hnone : decodeTable.filter (·.accepts w) = [] := by simpa [reserved] using h
  rw [decode, decodeBy_eq_accepting_head, hnone]
  rfl

theorem halves_append (w : InsnWord) : w.extractLsb' 7 7 ++ w.extractLsb' 0 7 = w :=
  BitVec.extractLsb'_append_extractLsb' (w := 7) (len := 7)

theorem toNat_halves (hi lo : BitVec 7) : (hi ++ lo : InsnWord).toNat = hi.toNat * 128 + lo.toNat := by
  rw [BitVec.toNat_append, ← Nat.shiftLeft_add_eq_or_of_lt lo.isLt, Nat.shiftLeft_eq]

/-- A row looks at the high seven bits of a word only, or it is one of the four fixed words' rows, which ask for all
high bits to be 0. -/
def DecodeRow.HighOrFixed (r : DecodeRow) : Prop :=
  r.mask.extractLsb' 0 7 = 0#7 ∨ (r.mask.extractLsb' 7 7 = BitVec.allOnes 7 ∧ r.value.extractLsb' 7 7 = 0#7)

theorem decodeTable_highOrFixed : ∀ r ∈ decodeTable, r.HighOrFixed := by
  unfold DecodeRow.HighOrFixed
  decide

theorem DecodeRow.HighOrFixed.accepts_append {r : DecodeRow} {hi : BitVec 7} (hr : r.HighOrFixed) (hhi : hi ≠ 0#7)
    (lo : BitVec 7) : r.accepts (hi ++ lo) = r.accepts (hi ++ 0#7) := by
  obtain hlow | ⟨hmask, hvalue⟩ := hr
  · have hsplit : r.mask = r.mask.extractLsb' 7 7 ++ 0#7 := by rw [← hlow, halves_append]
    rw [DecodeRow.accepts, DecodeRow.accepts, hsplit, BitVec.and_append, BitVec.and_append, BitVec.and_zero,
      BitVec.and_zero]
  · have hrejects (x : BitVec 7) : r.accepts (hi ++ x) = false := by
      refine beq_eq_false_iff_ne.mpr fun heq => hhi ?_
      have hbits := congrArg (BitVec.extractLsb' 7 7) heq
      rwa [BitVec.extractLsb'_and, hmask, hvalue, BitVec.and_allOnes, BitVec.extractLsb'_append_eq_left] at hbits
    rw [hrejects, hrejects]

theorem reserved_append {hi : BitVec 7} (hhi : hi ≠ 0#7) (lo : BitVec 7) :
    reserved (hi ++ lo) = reserved (hi ++ 0#7) := by
  rw [Bool.eq_iff_iff, reserved, reserved, List.all_eq_true, List.all_eq_true]
  exact forall₂_congr fun r hr => by rw [(decodeTable_highOrFixed r hr).accepts_append hhi]

theorem reserved_of_high_zero : ∀ lo : BitVec 7, reserved (0#7 ++ lo) = true ↔
    0#7 ++ lo ∉ [0x0000#14, 0x0020#14, 0x0040#14, 0x0060#14, 0x0008#14, 0x0009#14, 0x0063#14] := by decide

theorem reserved_of_low_zero : ∀ hi : BitVec 7, hi ≠ 0#7 →
    (reserved (hi ++ 0#7) = true ↔ hi = 0x76#7 ∨ hi = 0x77#7) := by decide

/-- Settles O4: the words with high bits 0 are those below `0x0080`, where the low bits are enumerated; of the others
the high bits alone decide, so that theirs are enumerated, and `0x76` and `0x77` are the high bits of
`0x3B00..0x3BFF`. -/
theorem reservedWordsRunAsNop : Obligations.ReservedWordsRunAsNop := by
  refine ⟨fun w => ?_, fun w s h => ?_⟩
  · obtain ⟨hi, lo, rfl⟩ : ∃ hi lo : BitVec 7, w = hi ++ lo := ⟨_, _, (halves_append w).symm⟩
    have hnat := toNat_halves hi lo
    by_cases hhi : hi = 0#7
    · subst hhi
      have hbelow : (0#7 ++ lo : InsnWord) < 0x0080#14 := by bv_omega
      have hsecond : ¬ 0x3B00#14 ≤ (0#7 ++ lo : InsnWord) := by bv_omega
      simp only [reserved_of_high_zero, hbelow, hsecond, true_and, false_and, or_false]
    · have hbelow : ¬ (hi ++ lo : InsnWord) < 0x0080#14 := by bv_omega
      simp only [reserved_append hhi, reserved_of_low_zero hi hhi, hbelow, false_and, false_or]
      bv_omega
  · rw [decode_of_reserved h]
    exact Machine.noOp_next s

end Sys2Proof

end

section

/-! ## The shared step, total on every word -/

namespace Sys2Proof.Machine

/-- Settles O9: the operands of the decoded instruction are the word's fields, which the shared step takes
(`exec_eq_datapathStep`). -/
theorem instructionRulesAgreeWithDatapath : Obligations.InstructionRulesAgreeWithDatapath :=
  ⟨fun w s => exec_eq_datapathStep s rfl (decode_operandsFrom w), step_eq_datapathStep⟩

theorem exec_total (i : Instr) (s : State) : ∃ t, exec i s = .next t := ⟨_, exec_eq_after i s⟩

theorem step_total (s : State) : ∃ t, step s = .next t := exec_total _ _

theorem safe_from (s : State) : Safe s := by
  intro n
  induction n generalizing s with
  | zero => exact ⟨s, rfl⟩
  | succ n ih =>
    obtain ⟨t, ht⟩ := step_total s
    rw [run_succ_of_step (M := core) ht]
    exact ih t

/-- Settles O7: no instruction refuses (`exec_total`), and a run of steps that each give a next state completes. -/
theorem everyRunCompletes : Obligations.EveryRunCompletes :=
  ⟨fun w => exec_total (decode w), step_total, safe_from⟩

theorem windowWord_of_paused {s : State} (h : s.pause = true) : s.windowWord = 0x0000#14 := if_pos h

/-- Settles O6: the window's word is NOP, whatever was fetched. -/
theorem pausedStepOnlyAdvances : Obligations.PausedStepOnlyAdvances := by
  intro s hpause
  rw [step, windowWord_of_paused hpause, decode_zero]
  exact noOp_next s.recordFetch

end Sys2Proof.Machine

/-! ## The arithmetic unit -/

namespace Sys2Proof.Machine

/-- Bit 8 of a sum of two bytes says whether it leaves the byte. -/
theorem getLsbD_eight_sum (x y : Byte) :
    (x.setWidth 9 + y.setWidth 9).getLsbD 8 = decide (256 ≤ x.toNat + y.toNat) := by
  have hsum : (x.setWidth 9 + y.setWidth 9).toNat = x.toNat + y.toNat := by bv_omega
  calc
    (x.setWidth 9 + y.setWidth 9).getLsbD 8 = (x.setWidth 9 + y.setWidth 9).msb := BitVec.msb_eq_getLsbD_last _ |>.symm
    _ = _ := by rw [BitVec.msb_eq_decide, hsum]

theorem arithUnit_eq (op : ArithOp) (lhs rhs negRhs : Byte) :
    arithUnit true op lhs rhs negRhs = (effLhs op lhs + effRhs op rhs negRhs,
      decide (256 ≤ (effLhs op lhs).toNat + (effRhs op rhs negRhs).toNat)) := by
  have hbyte (x y : Byte) : (x.setWidth 9 + y.setWidth 9).setWidth 8 = x + y := by bv_omega
  exact Prod.ext (hbyte _ _) (getLsbD_eight_sum _ _)

theorem arithUnit_add (lhs rhs negRhs : Byte) :
    arithUnit true .add lhs rhs negRhs = (lhs + rhs, decide (256 ≤ lhs.toNat + rhs.toNat)) :=
  arithUnit_eq .add lhs rhs negRhs

theorem arithUnit_sub (lhs rhs negRhs : Byte) :
    arithUnit true .sub lhs rhs negRhs = (lhs + negRhs, decide (256 ≤ lhs.toNat + negRhs.toNat)) :=
  arithUnit_eq .sub lhs rhs negRhs

theorem arithUnit_inc (lhs rhs negRhs : Byte) :
    arithUnit true .inc lhs rhs negRhs = (rhs + 1#8, rhs == 0xFF#8) := by
  have hcarry : decide (256 ≤ (1#8).toNat + rhs.toNat) = (rhs == 0xFF#8) := by
    rw [Bool.eq_iff_iff, decide_eq_true_iff, beq_iff_eq]
    bv_omega
  rw [arithUnit_eq, effLhs, effRhs, hcarry, BitVec.add_comm]

theorem arithUnit_dec (lhs rhs negRhs : Byte) :
    arithUnit true .dec lhs rhs negRhs = (rhs - 1#8, rhs != 0#8) := by
  have hbyte : 0xFF#8 + rhs = rhs - 1#8 := by bv_omega
  have hcarry : decide (256 ≤ (0xFF#8).toNat + rhs.toNat) = (rhs != 0#8) := by
    rw [Bool.eq_iff_iff, decide_eq_true_iff, bne_iff_ne]
    bv_omega
  rw [arithUnit_eq, effLhs, effRhs, hcarry, hbyte]

/-- Settles O31: the unit gives the byte of the 9-bit sum and whether the sum leaves the byte (`arithUnit_eq`). -/
theorem arithmeticUnitSums : Obligations.ArithmeticUnitSums := fun lhs rhs n =>
  ⟨arithUnit_add lhs rhs n, arithUnit_inc lhs rhs n, arithUnit_dec lhs rhs n⟩

/-! ### The committed carry in closed form (R116) -/

theorem arithCarry_add (lhs rhs : Byte) : arithCarry .add lhs rhs = decide (256 ≤ lhs.toNat + rhs.toNat) := by
  rw [arithCarry, arithUnit_add, ArithOp.inverts, Bool.xor_false]

/-- The 8-bit negation of 0 is 0, so that subtracting 0 gives no raw carry and commits a borrow (D5). -/
theorem arithCarry_sub (lhs rhs : Byte) : arithCarry .sub lhs rhs = (decide (lhs < rhs) || rhs == 0#8) := by
  have hcarry : ¬ 256 ≤ lhs.toNat + (negate rhs).toNat ↔ lhs < rhs ∨ rhs = 0#8 := by
    rw [negate]
    bv_omega
  rw [arithCarry, arithUnit_sub, ArithOp.inverts, Bool.xor_true, Bool.eq_iff_iff]
  simpa using hcarry

theorem arithCarry_inc (lhs rhs : Byte) : arithCarry .inc lhs rhs = (rhs == 0xFF#8) := by
  rw [arithCarry, arithUnit_inc, ArithOp.inverts, Bool.xor_false]

theorem arithCarry_dec (lhs rhs : Byte) : arithCarry .dec lhs rhs = (rhs == 0#8) := by
  rw [arithCarry, arithUnit_dec, ArithOp.inverts, Bool.xor_true, bne, Bool.not_not]

/-- Settles O32: the invert flag turns the raw carries of SUB and DEC into borrows. -/
theorem committedCarryClosedForms : Obligations.CommittedCarryClosedForms := fun lhs rhs =>
  ⟨arithValue_sub lhs rhs, arithCarry_add lhs rhs, arithCarry_sub lhs rhs, arithCarry_inc lhs rhs,
    arithCarry_dec lhs rhs⟩

end Sys2Proof.Machine

/-! ## The logic unit and the bit unit, bit by bit -/

namespace Sys2Proof.Machine

/-- Settles O33: each operation is the bitwise one of bit vectors. -/
theorem logicUnitBits : Obligations.LogicUnitBits :=
  ⟨fun _ _ _ => ⟨BitVec.getLsbD_and, BitVec.getLsbD_or, BitVec.getLsbD_xor⟩, fun _ _ _ => ⟨rfl, rfl⟩⟩

section BitUnit

variable (v : Byte) (c : Bool) (b : BitIdx) {i : Nat} (hi : i < 8)
include hi

theorem bitUnit_rotr_getLsbD : (bitUnit true .rotr v c b).1.getLsbD i = if i = 7 then c else v.getLsbD (i + 1) := by
  change BitVec.getLsbD (BitVec.ofBool c ++ v.extractLsb' 1 7) i = _
  rw [BitVec.getLsbD_append]
  by_cases h : i = 7
  · simp [h]
  · have hlow : i < 7 := by omega
    simp [h, hlow, Nat.add_comm]

theorem bitUnit_rotl_getLsbD : (bitUnit true .rotl v c b).1.getLsbD i = if i = 0 then c else v.getLsbD (i - 1) := by
  change BitVec.getLsbD (v.extractLsb' 0 7 ++ BitVec.ofBool c) i = _
  rw [BitVec.getLsbD_append]
  by_cases h : i = 0
  · simp [h]
  · have hlow : i - 1 < 7 := by omega
    simp [h, hlow]

theorem bitUnit_swap_getLsbD : (bitUnit true .swap v c b).1.getLsbD i = v.getLsbD ((i + 4) % 8) := by
  change BitVec.getLsbD (v.extractLsb' 0 4 ++ v.extractLsb' 4 4) i = _
  rw [BitVec.getLsbD_append]
  by_cases h : i < 4
  · have hmod : (i + 4) % 8 = 4 + i := by omega
    simp [h, hmod]
  · have hmod : (i + 4) % 8 = i - 4 := by omega
    have hlow : i - 4 < 4 := by omega
    simp [h, hmod, hlow]

theorem getLsbD_one_shiftLeft : (1#8 <<< b.toNat).getLsbD i = decide (i = b.toNat) := by
  rw [← BitVec.twoPow_eq, BitVec.getLsbD_eq_getElem hi, BitVec.getElem_twoPow]

theorem bitUnit_bitclr_getLsbD :
    (bitUnit true .bitclr v c b).1.getLsbD i = if i = b.toNat then false else v.getLsbD i := by
  change (v &&& ~~~(1#8 <<< b.toNat)).getLsbD i = _
  rw [BitVec.getLsbD_and, BitVec.getLsbD_not, getLsbD_one_shiftLeft b hi]
  by_cases h : i = b.toNat <;> simp [h, hi]

theorem bitUnit_bitset_getLsbD :
    (bitUnit true .bitset v c b).1.getLsbD i = if i = b.toNat then true else v.getLsbD i := by
  change (v ||| (1#8 <<< b.toNat)).getLsbD i = _
  rw [BitVec.getLsbD_or, getLsbD_one_shiftLeft b hi]
  by_cases h : i = b.toNat <;> simp [h]

end BitUnit

/-- Settles O34: one lemma per operation for its bits; each carry out is a bit of the operand or 0. -/
theorem bitUnitBits : Obligations.BitUnitBits := fun v c b =>
  ⟨fun _ hi => ⟨bitUnit_rotr_getLsbD v c b hi, bitUnit_rotl_getLsbD v c b hi, bitUnit_swap_getLsbD v c b hi,
    bitUnit_bitclr_getLsbD v c b hi, bitUnit_bitset_getLsbD v c b hi⟩, rfl, rfl, rfl, rfl, rfl, fun _ => ⟨rfl, rfl⟩⟩

/-- The bit that ROTL carried out of bit 7 goes back into it, and the carry in stands at bit 0, from which ROTR takes its
carry out. -/
theorem rotr_rotl (v : Byte) (c : Bool) (b : BitIdx) :
    bitUnit true .rotr (bitUnit true .rotl v c b).1 (bitUnit true .rotl v c b).2 b = (v, c) := by
  refine Prod.ext (BitVec.eq_of_getLsbD_eq fun i hi => ?_) (bitUnit_rotl_getLsbD v c b (i := 0) (by decide))
  rw [bitUnit_rotr_getLsbD _ _ _ hi]
  split
  · next h => rw [h]; rfl
  · next h => rw [bitUnit_rotl_getLsbD _ _ _ (by omega), if_neg (Nat.succ_ne_zero i), Nat.add_sub_cancel]

theorem rotl_rotr (v : Byte) (c : Bool) (b : BitIdx) :
    bitUnit true .rotl (bitUnit true .rotr v c b).1 (bitUnit true .rotr v c b).2 b = (v, c) := by
  refine Prod.ext (BitVec.eq_of_getLsbD_eq fun i hi => ?_) (bitUnit_rotr_getLsbD v c b (i := 7) (by decide))
  rw [bitUnit_rotl_getLsbD _ _ _ hi]
  split
  · next h => rw [h]; rfl
  · next h => rw [bitUnit_rotr_getLsbD _ _ _ (by omega), if_neg (by omega), Nat.sub_add_cancel (by omega)]

/-- Settles O35: each rotation puts back the bit that the other carried out (`rotr_rotl`, `rotl_rotr`). -/
theorem rotatesAreInverse : Obligations.RotatesAreInverse := fun v c b => ⟨rotr_rotl v c b, rotl_rotr v c b⟩

end Sys2Proof.Machine

/-! ## The circular call stack -/

namespace Sys2Proof.Machine

theorem push_top (s : State) (v : PAddr) : (s.push v).top = v := by
  have hslot : s.count + 1#3 - 1#3 = s.count := BitVec.add_sub_cancel _ _
  simp [State.top, hslot]

/-- Settles O36: the slot pushed is the one below the new count. -/
theorem pushWritesSlotAndCounts : Obligations.PushWritesSlotAndCounts := by
  intro s v
  refine ⟨rfl, push_top s v, fun i h => ?_⟩
  rw [State.push_stack, Vector.getElem_set]
  simp only [eq_comm]

/-! ### Pops only count down -/

theorem popAll_eq (n : Nat) : ∀ s : State, popAll n s = { s with count := s.count - BitVec.ofNat 3 n } := by
  induction n with
  | zero => intro s; rw [BitVec.sub_zero]; rfl
  | succ n ih =>
    intro s
    have hcount : s.count - 1#3 - BitVec.ofNat 3 n = s.count - BitVec.ofNat 3 (n + 1) := by
      rw [BitVec.ofNat_add]; bv_omega
    rw [popAll, ih, State.pop_count, hcount]
    rfl

theorem popAll_count (n : Nat) (s : State) : (popAll n s).count = s.count - BitVec.ofNat 3 n := by rw [popAll_eq]

/-- After eight pops the count is back where it was. -/
theorem popAll_eight (s : State) : popAll 8 s = s := by
  rw [popAll_eq, show BitVec.ofNat 3 8 = 0#3 from rfl, BitVec.sub_zero]

theorem popped_append (m n : Nat) : ∀ s : State, popped (m + n) s = popped m s ++ popped n (popAll m s) := by
  induction m with
  | zero => intro s; rw [Nat.zero_add]; rfl
  | succ m ih => intro s; rw [Nat.succ_add, popped, ih]; rfl

/-! ### Pops after a push -/

/-- The slot that a push wrote is the eighth below the count before it, so that no pop up to the seventh reads it. -/
theorem pop_push_top_below (s : State) (v : PAddr) {n : Nat} (h : n < 7) :
    (popAll n (s.push v).pop).top = (popAll n s).top := by
  have hcount : s.count + 1#3 - 1#3 = s.count := BitVec.add_sub_cancel _ _
  have hslot : s.count.toNat ≠ (s.count - BitVec.ofNat 3 n - 1#3).toNat := by bv_omega
  simp only [popAll_eq, State.top, State.pop_stack, State.pop_count, State.push_stack, State.push_count, hcount]
  exact Vector.getElem_set_ne _ _ hslot

theorem popped_succ_last (n : Nat) (s : State) : popped (n + 1) s = popped n s ++ [(popAll n s).top] :=
  popped_append n 1 s

theorem popped_pop_push (s : State) (v : PAddr) {n : Nat} (h : n ≤ 7) :
    popped n (s.push v).pop = popped n s := by
  induction n with
  | zero => rfl
  | succ n ih => rw [popped_succ_last, popped_succ_last, ih (by omega), pop_push_top_below s v (by omega)]

theorem popped_push (s : State) (v : PAddr) {n : Nat} (h : n ≤ 7) :
    popped (n + 1) (s.push v) = v :: popped n s := by
  rw [popped, push_top, popped_pop_push s v h]

theorem pushAll_concat (vs : List PAddr) (v : PAddr) (s : State) : pushAll (vs ++ [v]) s = (pushAll vs s).push v :=
  List.foldl_concat _ _ _ _

theorem pushAll_count (vs : List PAddr) : ∀ s : State, (pushAll vs s).count = s.count + BitVec.ofNat 3 vs.length := by
  induction vs with
  | nil => intro s; exact (BitVec.add_zero _).symm
  | cons v vs ih =>
    intro s
    rw [pushAll, List.foldl_cons, ← pushAll, ih, State.push_count, List.length_cons, BitVec.ofNat_add]
    bv_omega

/-- Up to eight pushes come back in reverse. -/
theorem popped_pushAll (vs : List PAddr) (s : State) (h : vs.length ≤ 8) :
    popped vs.length (pushAll vs s) = vs.reverse := by
  induction vs using List.reverseRecOn with
  | nil => rfl
  | append_singleton vs v ih =>
    rw [List.length_append, List.length_singleton] at h ⊢
    rw [pushAll_concat, popped_push _ v (by omega), ih (by omega), List.reverse_concat]

/-- The ninth pop reads the slot of the first one again. -/
theorem popped_nine (s : State) : popped 9 s = popped 8 s ++ (popped 8 s).head?.toList := by
  rw [popped_succ_last 8, popAll_eight]
  rfl

/-- Settles O37: a push is what the next pop gives, and the seven pops after it do not see it (`popped_push`), so that up
to eight pushes come back in reverse; of nine, the last eight do, after which the count has come round. -/
theorem stackIsCircular : Obligations.StackIsCircular := by
  refine ⟨fun vs s h => ⟨popped_pushAll vs s h, ?_⟩, fun v vs s h => ?_, popAll_count⟩
  · rw [popAll_count, pushAll_count, BitVec.add_sub_cancel]
  · have hpopped : popped 8 (pushAll (v :: vs) s) = vs.reverse := h ▸ popped_pushAll vs (s.push v) h.le
    rw [popped_nine, hpopped, List.head?_reverse]

end Sys2Proof.Machine

/-! ## The stack strobes -/

namespace Sys2Proof.Machine

theorem phase2_push (s : State) : s.phase2.latch.push = decide (s.latchedRow.flow = .call) := rfl

theorem phase2_pop (s : State) : s.phase2.latch.pop = decide (s.latchedRow.flow = .ret) := rfl

/-- One instruction never pushes and pops (R141). -/
theorem phase2_not_push_and_pop (s : State) : (s.phase2.latch.push && s.phase2.latch.pop) = false := by
  rw [phase2_push, phase2_pop]
  cases s.latchedRow.flow <;> rfl

/-- Settles O58: phases 0 and 1 leave the strobes alone, phase 2 raises at most one of them, and phase 3
ends both. -/
theorem pushAndPopNeverTogether : Obligations.PushAndPopNeverTogether := by
  refine ⟨fun s h => ?_, rfl⟩
  unfold clock
  split_ifs
  · exact h
  · exact h
  · exact phase2_not_push_and_pop s
  · rfl

end Sys2Proof.Machine

end

section

/-! ## Fixed words: NOP, RETURN, RETFIE and SLEEP -/

namespace Sys2Proof.Machine

/-! ### What the fixed words and CALL run -/

theorem exec_nop (s : State) : exec .nop s = noOp s := rfl

theorem exec_sleep (s : State) : exec .sleep s = noOp s := rfl

theorem exec_ret (s : State) : exec .ret s = returnOp s := rfl

theorem exec_retfie (s : State) : exec .retfie s = returnOp s := rfl

theorem exec_call (a : Target) (s : State) :
    exec (.call a) s = .next ((s.push (s.pc + 1#12)).jump (s.target a)) := rfl

/-! ### Returning from a call -/

/-- A push and a pop leave the value in its slot and the count where it was (R120, R121). -/
theorem push_pop (s : State) (v : PAddr) :
    (s.push v).pop = { s with stack := s.stack.set s.count.toNat v s.count.isLt } := by
  rw [State.pop, State.push_count, BitVec.add_sub_cancel]
  rfl

/-- A return does not see where a jump before it went. -/
theorem returnOp_jump (s : State) (a : PAddr) : returnOp (s.jump a) = returnOp s := rfl

theorem returnOp_push (s : State) (v : PAddr) :
    returnOp (s.push v) = .next { s with
      pc := v, pause := false, stack := s.stack.set s.count.toNat v s.count.isLt } := by
  rw [returnOp, push_pop, push_top]
  rfl

/-- Settles O14: the RETURN pops what the CALL pushed (`returnOp_push`), whatever the target was. -/
theorem returnUndoesCall : Obligations.ReturnUndoesCall := by
  intro a s
  refine ⟨_, exec_call a s, ?_⟩
  rw [exec_ret, returnOp_jump, returnOp_push]

/-- Settles O11: the word is RETURN's own encoding, and its meaning is the pop into the PC. -/
theorem returnPopsIntoPc : Obligations.ReturnPopsIntoPc :=
  ⟨decodeInvertsEncode .ret, fun s => (exec_ret s).trans (returnOp_next s)⟩

/-- Settles O12: RETFIE runs RETURN's operation and SLEEP runs NOP's. -/
theorem retfieIsReturnAndSleepIsNop : Obligations.RetfieIsReturnAndSleepIsNop :=
  ⟨decodeInvertsEncode .retfie, decodeInvertsEncode .sleep,
    fun s => (exec_retfie s).trans (returnOp_next s), fun s => (exec_sleep s).trans (noOp_next s)⟩

/-! ### NOP -/

theorem exec_nop_next (s : State) : exec .nop s = .next { s with pc := s.pc + 1#12, pause := false } :=
  (exec_nop s).trans (noOp_next s)

/-- The two don't-care bits of NOP's row (R83, R160). -/
theorem decode_nop_words : ∀ x : BitVec 2, decode (0b0000000#7 ++ x ++ 0b00000#5) = .nop := by decide

/-- A window that runs NOP advances after its fetch, paused or not. -/
theorem step_of_nop {s : State} (h : decode s.windowWord = .nop) :
    step s = .next { s.recordFetch with pc := s.pc + 1#12, pause := false } := by
  rw [step, h, exec_nop_next]
  rfl

/-- Settles O10: the words are those of NOP's row and the reserved ones. -/
theorem nopOnlyAdvances : Obligations.NopOnlyAdvances :=
  ⟨decode_nop_words, fun _ => decode_of_reserved, exec_nop_next, fun _ => step_of_nop⟩

end Sys2Proof.Machine

end

section

/-! ## Byte-oriented instructions -/

namespace Sys2Proof.Machine

/-! ### What an instruction of the d-family does, said once -/

/-- The state after a file operation is the template of 42_byte_oriented.md, filled with the result; a flag that the
result does not write stands. -/
theorem fileOp_next (f : FAddr) (d : Dest) (result : Byte → Result) (s : State) :
    fileOp f d result s = .next (dFamilyNext s f d (result (s.fileByte f)).value ((result (s.fileByte f)).z.getD s.z)
      ((result (s.fileByte f)).c.getD s.c) (result (s.fileByte f)).skip) := by
  cases d with
  | w => exact fileOp_w f result s
  | f => exact fileOp_f f result s

theorem fileOp_of_result {f : FAddr} {s : State} {result : Byte → Result} {value : Byte} {z c : Option Bool}
    {skip : Bool} (h : result (s.fileByte f) = ⟨value, z, c, skip⟩) (d : Dest) :
    fileOp f d result s = .next (dFamilyNext s f d value (z.getD s.z) (c.getD s.c) skip) := by
  rw [fileOp_next, h]

section Template

variable (s : State) (f : FAddr) (d : Dest) (r : Byte) (z c pause : Bool)

@[simp] theorem dFamilyNext_pc : (dFamilyNext s f d r z c pause).pc = s.pc + 1#12 := by cases d <;> rfl

@[simp] theorem dFamilyNext_pause : (dFamilyNext s f d r z c pause).pause = pause := by cases d <;> rfl

@[simp] theorem dFamilyNext_c : (dFamilyNext s f d r z c pause).c = c := by cases d <;> rfl

@[simp] theorem dFamilyNext_ports : (dFamilyNext s f d r z c pause).ports = s.ports := by cases d <;> rfl

variable {s f}

theorem dFamilyNext_canonical (hs : Canonical s) : Canonical (dFamilyNext s f d r z c pause) := by
  cases d with
  | w => exact hs
  | f => exact State.memWrite_memoriesWf f r hs

/-- Plain memory answers what the instruction stored. -/
theorem fileByte_dFamilyNext_f (hs : Canonical s) (hf : f ∉ s.ports) : (dFamilyNext s f .f r z c pause).fileByte f = r := by
  rw [fileByte_of_not_port (s := dFamilyNext s f .f r z c pause) hf]
  exact read_memWrite_self r hs hf

end Template

/-! ### Results in closed form (R111 to R116, R137) -/

theorem arithResult_add (lhs rhs : Byte) : arithResult .add lhs rhs =
    ⟨lhs + rhs, some (lhs + rhs == 0#8), some (decide (256 ≤ lhs.toNat + rhs.toNat)), false⟩ := by
  rw [arithResult, arithZero, arithValue_add, arithCarry_add]

theorem arithResult_sub (lhs rhs : Byte) : arithResult .sub lhs rhs =
    ⟨lhs - rhs, some (lhs - rhs == 0#8), some (decide (lhs < rhs) || rhs == 0#8), false⟩ := by
  rw [arithResult, arithZero, arithValue_sub, arithCarry_sub]

theorem arithResult_inc (lhs rhs : Byte) : arithResult .inc lhs rhs =
    ⟨rhs + 1#8, some (rhs + 1#8 == 0#8), some (rhs == 0xFF#8), false⟩ := by
  rw [arithResult, arithZero, arithValue_inc, arithCarry_inc]

theorem arithResult_dec (lhs rhs : Byte) : arithResult .dec lhs rhs =
    ⟨rhs - 1#8, some (rhs - 1#8 == 0#8), some (rhs == 0#8), false⟩ := by
  rw [arithResult, arithZero, arithValue_dec, arithCarry_dec]

theorem arithSkipResult_inc (rhs : Byte) : arithSkipResult .inc rhs =
    ⟨rhs + 1#8, none, some (rhs == 0xFF#8), rhs + 1#8 == 0#8⟩ := by
  rw [arithSkipResult, arithZero, arithValue_inc, arithCarry_inc]

theorem arithSkipResult_dec (rhs : Byte) : arithSkipResult .dec rhs =
    ⟨rhs - 1#8, none, some (rhs == 0#8), rhs - 1#8 == 0#8⟩ := by
  rw [arithSkipResult, arithZero, arithValue_dec, arithCarry_dec]

theorem logicResult_eq (op : LogicOp) (lhs rhs : Byte) :
    logicResult op lhs rhs = ⟨logicUnit true op lhs rhs, some (lhs + rhs == 0#8), none, false⟩ := by
  rw [logicResult, arithZero, arithValue_add]

theorem zeroTested_complement (v : Byte) : zeroTested (~~~v) = ⟨~~~v, some (v == 0xFF#8), none, false⟩ := by
  rw [zeroTested, complement_zeroTested]

/-! ### Rotates -/

theorem exec_rrf (f : FAddr) (d : Dest) (s : State) : exec (.rrf f d) s = .next
    (dFamilyNext s f d (bitUnit true .rotr (s.fileByte f) s.c 0#3).1 s.z (bitUnit true .rotr (s.fileByte f) s.c 0#3).2
      false) :=
  fileOp_next f d (fun fv => bitResult .rotr fv s.c 0#3) s

theorem exec_rlf (f : FAddr) (d : Dest) (s : State) : exec (.rlf f d) s = .next
    (dFamilyNext s f d (bitUnit true .rotl (s.fileByte f) s.c 0#3).1 s.z (bitUnit true .rotl (s.fileByte f) s.c 0#3).2
      false) :=
  fileOp_next f d (fun fv => bitResult .rotl fv s.c 0#3) s

/-- RRF reads back the byte that RLF stored, with the C it left, and its rotation undoes the other (`rotr_rotl`). -/
theorem rlf_then_rrf_restores {f : FAddr} {s : State} (hs : Canonical s) (hf : f ∉ s.ports) :
    ∃ t u, exec (.rlf f .f) s = .next t ∧ exec (.rrf f .f) t = .next u ∧ u.fileByte f = s.fileByte f ∧ u.c = s.c := by
  refine ⟨_, _, exec_rlf f .f s, exec_rrf f .f _, ?_, ?_⟩
  · rw [fileByte_dFamilyNext_f _ _ _ _ (dFamilyNext_canonical _ _ _ _ _ hs) (by rwa [dFamilyNext_ports]),
      fileByte_dFamilyNext_f _ _ _ _ hs hf, dFamilyNext_c, rotr_rotl]
  · rw [dFamilyNext_c, fileByte_dFamilyNext_f _ _ _ _ hs hf, dFamilyNext_c, rotr_rotl]

/-- Settles O27: the closed forms are the bit unit's outputs, and the round trip is `rlf_then_rrf_restores`. -/
theorem rotatesGoThroughCarry : Obligations.RotatesGoThroughCarry :=
  ⟨fun f d => ⟨decodeInvertsEncode (.rrf f d), decodeInvertsEncode (.rlf f d)⟩, fun _ _ => rlf_then_rrf_restores,
    fun f d s => ⟨exec_rrf f d s, exec_rlf f d s⟩⟩

/-- Settles O28: SWAP carries nothing out. -/
theorem swapfSwapsAndClearsCarry : Obligations.SwapfSwapsAndClearsCarry :=
  ⟨fun f d => decodeInvertsEncode (.swapf f d), fun f d s => fileOp_next f d (fun fv => bitResult .swap fv s.c 0#3) s⟩

/-! ### Instructions that do not read a file register -/

/-- Settles O19: MOVWF is the store of W, with no flag in its result. -/
theorem movwfStoresW : Obligations.MovwfStoresW :=
  ⟨fun f => decodeInvertsEncode (.movwf f), fun f s => storeOp_next f (plainResult s.w) s⟩

/-- CLRW's row does not look at the low seven bits (R83, R181). -/
theorem decode_clrw (x : BitVec 7) : decode (0b0000010#7 ++ x) = .clrw := by
  have hrow : fixedRows[5] ∈ decodeTable := List.mem_append_left _ (List.mem_append_left _ (List.getElem_mem _))
  have haccepts : fixedRows[5].accepts (0b0000010#7 ++ x) = true :=
    beq_iff_eq.mpr (Laws.masked_append (p := 0b1111111#7) x rfl)
  exact decode_of_accepts hrow haccepts

/-- Settles O20: both run the accumulator operation on a tested 0, which touches no bus. -/
theorem clrwAndClrfClearW : Obligations.ClrwAndClrfClearW :=
  ⟨decode_clrw, fun f => decodeInvertsEncode (.clrf f),
    fun _ s => ⟨accumulatorOp_next (zeroTested 0#8) s, accumulatorOp_next (zeroTested 0#8) s⟩⟩

/-! ### Arithmetic, logic and moves -/

/-- Settles O21: W is the left operand, and the committed carry of SUB is the borrow (`arithResult_sub`). -/
theorem subwfSubtractsFileFromW : Obligations.SubwfSubtractsFileFromW :=
  ⟨fun f d => decodeInvertsEncode (.subwf f d), fun f d s => fileOp_of_result (arithResult_sub s.w (s.fileByte f)) d⟩

/-- Settles O22: C is the carry out of the byte (`arithResult_add`). -/
theorem addwfAddsWithCarry : Obligations.AddwfAddsWithCarry :=
  ⟨fun f d => decodeInvertsEncode (.addwf f d), fun f d s => fileOp_of_result (arithResult_add s.w (s.fileByte f)) d⟩

/-- Settles O23: the adder gives Z for all three operations (`logicResult_eq`), and none of them writes C. -/
theorem fileLogicTakesZFromSum : Obligations.FileLogicTakesZFromSum :=
  ⟨fun f d => ⟨decodeInvertsEncode (.iorwf f d), decodeInvertsEncode (.andwf f d), decodeInvertsEncode (.xorwf f d)⟩,
    fun f d s => ⟨fileOp_of_result (logicResult_eq .or s.w (s.fileByte f)) d,
      fileOp_of_result (logicResult_eq .and s.w (s.fileByte f)) d,
      fileOp_of_result (logicResult_eq .xor s.w (s.fileByte f)) d⟩⟩

/-- Settles O24: the carry leaves the byte, or a borrow enters it, exactly where the count wraps (`arithResult_dec`,
`arithResult_inc`). -/
theorem decfAndIncfCountAndWriteCarry : Obligations.DecfAndIncfCountAndWriteCarry :=
  ⟨fun f d => ⟨decodeInvertsEncode (.decf f d), decodeInvertsEncode (.incf f d)⟩,
    fun f d s => ⟨fileOp_of_result (arithResult_dec 0#8 (s.fileByte f)) d,
      fileOp_of_result (arithResult_inc 0#8 (s.fileByte f)) d⟩⟩

/-- Settles O25: the complement is 0 exactly when the byte read is 0xFF (`zeroTested_complement`). -/
theorem movfAndComfTestZero : Obligations.MovfAndComfTestZero :=
  ⟨fun f d => ⟨decodeInvertsEncode (.movf f d), decodeInvertsEncode (.comf f d)⟩,
    fun f d s => ⟨fileOp_next f d zeroTested s,
      fileOp_of_result (result := fun fv => zeroTested (~~~fv)) (zeroTested_complement (s.fileByte f)) d⟩⟩

/-! ### Skips -/

theorem exec_decfsz (f : FAddr) (d : Dest) (s : State) : exec (.decfsz f d) s = .next
    (dFamilyNext s f d (s.fileByte f - 1#8) s.z (s.fileByte f == 0#8) (s.fileByte f - 1#8 == 0#8)) :=
  fileOp_of_result (arithSkipResult_dec (s.fileByte f)) d

theorem exec_incfsz (f : FAddr) (d : Dest) (s : State) : exec (.incfsz f d) s = .next
    (dFamilyNext s f d (s.fileByte f + 1#8) s.z (s.fileByte f == 0xFF#8) (s.fileByte f + 1#8 == 0#8)) :=
  fileOp_of_result (arithSkipResult_inc (s.fileByte f)) d

/-- The step after a skip is the paused one, which only advances (R142). -/
theorem skip_reaches_pc_add_two {i : Instr} {s t : State} (h : exec i s = .next t) (hpc : t.pc = s.pc + 1#12)
    (hpause : t.pause = true) : ∃ t u, exec i s = .next t ∧ step t = .next u ∧ u.pc = s.pc + 2#12 := by
  refine ⟨t, _, h, pausedStepOnlyAdvances t hpause, ?_⟩
  change t.pc + 1#12 = _
  rw [hpc, BitVec.add_assoc]
  rfl

/-- Settles O26: the count is 0 from 1 down and from 0xFF up, where the next step is the paused one
(`skip_reaches_pc_add_two`). -/
theorem decfszAndIncfszSkipOnZero : Obligations.DecfszAndIncfszSkipOnZero := by
  refine ⟨fun f d => ⟨decodeInvertsEncode (.decfsz f d), decodeInvertsEncode (.incfsz f d)⟩,
    fun f d s => ⟨exec_decfsz f d s, exec_incfsz f d s⟩, fun f d s h => ?_, fun f d s h => ?_⟩
  · exact skip_reaches_pc_add_two (exec_decfsz f d s) (dFamilyNext_pc ..) (by rw [dFamilyNext_pause, h]; rfl)
  · exact skip_reaches_pc_add_two (exec_incfsz f d s) (dFamilyNext_pc ..) (by rw [dFamilyNext_pause, h]; rfl)

end Sys2Proof.Machine

end

section

/-! ## Bit-oriented instructions -/

namespace Sys2Proof.Machine

/-! ### Changing a bit -/

theorem bitResult_bitclr (v : Byte) (c : Bool) (b : BitIdx) :
    bitResult .bitclr v c b = ⟨v &&& ~~~(1#8 <<< b.toNat), none, some false, false⟩ := rfl

theorem bitResult_bitset (v : Byte) (c : Bool) (b : BitIdx) :
    bitResult .bitset v c b = ⟨v ||| (1#8 <<< b.toNat), none, some false, false⟩ := rfl

/-- Settles O29: both are file operations whose destination is always `f`; the bit unit masks the one bit and carries
nothing out (`bitResult_bitclr`, `bitResult_bitset`), and Z is not in its result. -/
theorem bcfAndBsfWriteTheBit : Obligations.BcfAndBsfWriteTheBit :=
  ⟨fun f b => ⟨decodeInvertsEncode (.bcf f b), decodeInvertsEncode (.bsf f b)⟩,
    fun f b s => ⟨fileOp_of_result (result := fun fv => bitResult .bitclr fv s.c b)
        (bitResult_bitclr (s.fileByte f) s.c b) .f,
      fileOp_of_result (result := fun fv => bitResult .bitset fv s.c b) (bitResult_bitset (s.fileByte f) s.c b) .f⟩⟩

/-! ### Testing a bit -/

theorem exec_btfsc (f : FAddr) (b : BitIdx) (s : State) : exec (.btfsc f b) s = bitTestOp f b false s := rfl

theorem exec_btfss (f : FAddr) (b : BitIdx) (s : State) : exec (.btfss f b) s = bitTestOp f b true s := rfl

/-- Settles O30: the bit test reads and moves on, and its skip is the parameter together with the bit being the value
tested for (`bitTestOp_next`): clear is the negated bit, set is the bit itself. -/
theorem bitTestsSkipUnderParameter : Obligations.BitTestsSkipUnderParameter := by
  refine ⟨fun f b => ⟨decodeInvertsEncode (.btfsc f b), decodeInvertsEncode (.btfss f b)⟩, fun f b s => ⟨?_, ?_⟩⟩
  · rw [exec_btfsc, bitTestOp_next, beq_false]
  · rw [exec_btfss, bitTestOp_next, beq_true]

end Sys2Proof.Machine

end

section

/-! ## Literal instructions, CALL and GOTO -/

namespace Sys2Proof.Machine

/-! ### The words of the literal instructions, their don't-care bits included (R83) -/

/-- A literal row looks at the high six bits only, and its literal is the low byte. -/
theorem decode_literal {mk : Byte → Instr} {hi mask value : BitVec 6} (i : Nat)
    (hrow : bitControlLiteralRows[i]? = some ⟨mask ++ 0#8, value ++ 0#8, fun w => mk (fieldK w)⟩)
    (h : hi &&& mask = value) (k : Byte) : decode (hi ++ k) = mk k := by
  have hmem := List.mem_append_right (fixedRows ++ byteRows) (List.mem_of_getElem? hrow)
  have haccepts : (hi ++ k) &&& (mask ++ 0#8) = value ++ 0#8 := by rw [BitVec.and_append, h, BitVec.and_zero]
  exact (decode_of_accepts hmem (beq_iff_eq.mpr haccepts)).trans (congrArg mk (Laws.fieldK_append hi k))

theorem decode_movlw (x : BitVec 2) (k : Byte) : decode (0b1100#4 ++ x ++ k) = .movlw k :=
  decode_literal (mk := .movlw) (mask := 0b1111#4 ++ 0#2) 6 rfl (Laws.masked_append x rfl) k

theorem decode_retlw (x : BitVec 2) (k : Byte) : decode (0b1101#4 ++ x ++ k) = .retlw k :=
  decode_literal (mk := .retlw) (mask := 0b1111#4 ++ 0#2) 7 rfl (Laws.masked_append x rfl) k

theorem decode_sublw (x : BitVec 1) (k : Byte) : decode (0b11110#5 ++ x ++ k) = .sublw k :=
  decode_literal (mk := .sublw) (mask := 0b11111#5 ++ 0#1) 11 rfl (Laws.masked_append x rfl) k

theorem decode_addlw (x : BitVec 1) (k : Byte) : decode (0b11111#5 ++ x ++ k) = .addlw k :=
  decode_literal (mk := .addlw) (mask := 0b11111#5 ++ 0#1) 12 rfl (Laws.masked_append x rfl) k

/-! ### Jumps and returns -/

theorem exec_goto (a : Target) (s : State) : exec (.goto a) s = .next (s.jump (s.target a)) := rfl

theorem exec_retlw (k : Byte) (s : State) : exec (.retlw k) s = returnOp { s with w := k } := rfl

/-- Settles O13: both jump to `target`, which drops PCLATH bit 4 (D3), and CALL pushes before it jumps. -/
theorem callAndGotoTakeTheTarget : Obligations.CallAndGotoTakeTheTarget :=
  ⟨fun a => ⟨decodeInvertsEncode (.call a), decodeInvertsEncode (.goto a)⟩, fun a s => ⟨exec_call a s, exec_goto a s⟩⟩

/-- Settles O15: MOVLW's result holds no flag, and RETLW is a return from the state that has the literal in W. -/
theorem movlwAndRetlwLoadLiteral : Obligations.MovlwAndRetlwLoadLiteral :=
  ⟨fun x k => ⟨decode_movlw x k, decode_retlw x k⟩,
    fun k s => ⟨accumulatorOp_next (plainResult k) s, (exec_retlw k s).trans (returnOp_next { s with w := k })⟩⟩

/-! ### Logic and arithmetic on W and a literal -/

/-- The accumulator operation on a result in closed form; a flag that the result does not write stands. -/
theorem accumulatorOp_of_result {r : Result} {value : Byte} {z c : Option Bool} {skip : Bool}
    (h : r = ⟨value, z, c, skip⟩) (s : State) :
    accumulatorOp r s = .next { s with
      w := value, z := z.getD s.z, c := c.getD s.c, pc := s.pc + 1#12, pause := skip } := by
  rw [accumulatorOp_next, h]

/-- Settles O16: the adder gives Z for all three operations (`logicResult_eq`), and none of them writes C. -/
theorem literalLogicTakesZFromSum : Obligations.LiteralLogicTakesZFromSum :=
  ⟨fun k => ⟨decodeInvertsEncode (.iorlw k), decodeInvertsEncode (.andlw k), decodeInvertsEncode (.xorlw k)⟩,
    fun k s => ⟨accumulatorOp_of_result (logicResult_eq .or s.w k) s,
      accumulatorOp_of_result (logicResult_eq .and s.w k) s, accumulatorOp_of_result (logicResult_eq .xor s.w k) s⟩⟩

/-- Settles O17: C is the carry out of the byte (`arithResult_add`). -/
theorem addlwAddsWithCarry : Obligations.AddlwAddsWithCarry :=
  ⟨decode_addlw, fun k s => accumulatorOp_of_result (arithResult_add s.w k) s⟩

/-- Settles O18: W is the left operand, and the committed carry of SUB is the borrow (`arithResult_sub`). -/
theorem sublwSubtractsLiteralFromW : Obligations.SublwSubtractsLiteralFromW :=
  ⟨decode_sublw, fun k s => accumulatorOp_of_result (arithResult_sub s.w k) s⟩

end Sys2Proof.Machine

end

section

/-! ## The reset input and the four phases -/

namespace Sys2Proof.Machine

/-! ### What the rows of R144 say of an instruction, in the terms of the claims -/

theorem classify_writesZ (i : Instr) : (classify i).writesZ = writesZ i := by cases i <;> rfl

theorem classify_writesC (i : Instr) : (classify i).writesC = writesC i := by cases i <;> rfl

theorem classify_readsF (i : Instr) : (classify i).readsF = (readsFrom i).isSome := by cases i <;> rfl

theorem classify_skip_of_maySkip {i : Instr} (h : maySkip true i = false) : (classify i).skip = .never := by
  cases i with
  | incfsz _ _ | decfsz _ _ | btfsc _ _ | btfss _ _ => cases h
  | _ => rfl

/-- The stack operation that a flow makes (R141). -/
def Flow.stackUse : Flow → Option Bool
  | .call => some true
  | .ret => some false
  | .next | .goto => none

theorem stackUse_eq_flow (i : Instr) : stackUse i = (classify i).flow.stackUse := by cases i <;> rfl

section Operands

variable {w : InsnWord} {i : Instr} (hop : OperandsFrom w i)
include hop

/-- The destination is W or F by the row alone or by bit 7 of the word, and an instruction whose destination is F stores
at the low 7 bits of its word (R131). -/
theorem writesW_and_storesTo_eq_resolve :
    writesW i = decide ((classify i).dest.resolve (fieldD w) = some .w) ∧
    storesTo i = if (classify i).dest.resolve (fieldD w) = some .f then some (fieldF w) else none := by
  cases i with
  | movwf _ =>
    obtain ⟨rfl, hd⟩ := hop
    rw [hd]
    exact ⟨rfl, rfl⟩
  | subwf _ _ | decf _ _ | iorwf _ _ | andwf _ _ | xorwf _ _ | addwf _ _ | movf _ _ | comf _ _ | incf _ _ | decfsz _ _
  | rrf _ _ | rlf _ _ | swapf _ _ | incfsz _ _ =>
    obtain ⟨rfl, rfl⟩ := hop
    cases fieldD w <;> exact ⟨rfl, rfl⟩
  | bcf _ _ | bsf _ _ => obtain ⟨rfl, -⟩ := hop; exact ⟨rfl, rfl⟩
  | _ => exact ⟨rfl, rfl⟩

/-- The flow of an instruction goes to the PC of its rule. -/
theorem follow_classify_pc (s : State) : (s.follow (classify i).flow (fieldA w)).pc = nextPc i s := by
  cases i with
  | call _ | goto _ => obtain rfl := hop; rfl
  | _ => rfl

end Operands

variable (s : State)

/-! ### The phase that a clock runs -/

section Clock

variable {s}

theorem clock_of_phase1 (h : s.latch.phase = 1#2) : clock s = s.phase1 := by
  rw [clock, h]
  rfl

theorem clock_of_phase2 (h : s.latch.phase = 2#2) : clock s = s.phase2 := by
  rw [clock, h]
  rfl

theorem clock_of_phase3 (h : s.latch.phase = 3#2) : clock s = s.phase3 := by
  rw [clock, h]
  rfl

end Clock

/-! ### Reset -/

/-- Settles O52: the reset input selects the external reset, which leaves every field outside the core as it was. -/
theorem externalResetSparesTheEnvironment : Obligations.ExternalResetSparesTheEnvironment := fun _ => rfl

/-! ### Phase 0 -/

/-- Where the result of the instruction in `IR` goes (R131). -/
def State.latchedDest : Option Dest := s.latchedRow.dest.resolve (fieldD s.latch.ir)

theorem writesW_latched : writesW (decode s.latch.ir) = decide (s.latchedDest = some .w) :=
  (writesW_and_storesTo_eq_resolve (decode_operandsFrom s.latch.ir)).1

theorem storesTo_latched :
    storesTo (decode s.latch.ir) = if s.latchedDest = some .f then some (fieldF s.latch.ir) else none :=
  (writesW_and_storesTo_eq_resolve (decode_operandsFrom s.latch.ir)).2

theorem State.writeResult_w (dest : Option Dest) (f : FAddr) (v : Byte) :
    (s.writeResult dest f v).w = if dest = some .w then v else s.w := by
  rcases dest with _ | _ | _ <;> rfl

theorem State.writeResult_bus (dest : Option Dest) (f : FAddr) (v : Byte) :
    (s.writeResult dest f v).bus = if dest = some .f then .write f v :: s.bus else s.bus := by
  rcases dest with _ | _ | _ <;> rfl

theorem phase0_w : s.phase0.w = if writesW (decode s.latch.ir) then s.latchedResult else s.w := by
  simp only [writesW_latched, decide_eq_true_eq]
  exact State.writeResult_w s s.latchedDest (fieldF s.latch.ir) s.latchedResult

theorem phase0_z : s.phase0.z = if writesZ (decode s.latch.ir) then s.latch.skip else s.z := by
  rw [← classify_writesZ]
  rfl

theorem phase0_c : s.phase0.c = if writesC (decode s.latch.ir) then s.latchedCarry else s.c := by
  rw [← classify_writesC]
  rfl

theorem phase0_bus : s.phase0.bus =
    if s.latchedDest = some .f then .write (fieldF s.latch.ir) s.latchedResult :: s.bus else s.bus :=
  State.writeResult_bus s s.latchedDest (fieldF s.latch.ir) s.latchedResult

theorem phase0_periphWrite : s.phase0.latch.periphWrite = decide (s.latchedDest = some .f) := rfl

theorem phase0_periphAddr : s.phase0.latch.periphAddr =
    if s.latchedDest = some .f then fieldF s.latch.ir else s.latch.periphAddr := rfl

theorem phase0_writeData : s.phase0.latch.writeData =
    if s.latchedDest = some .f then s.latchedResult else s.latch.writeData := rfl

/-- A row that can skip sets `pause` to its skip condition, and any other row leaves it (R142). -/
theorem phase0_pause : s.phase0.pause = if s.latchedRow.skip = .never then s.pause
    else s.latchedRow.skip.holds s.bitTestSkip s.latch.skip s.latch.rhs (fieldB s.latch.ir) := rfl

section Pause

variable {s}

theorem phase0_pause_of_no_skip (h : maySkip true (decode s.latch.ir) = false) : s.phase0.pause = s.pause :=
  (phase0_pause s).trans (if_pos (classify_skip_of_maySkip h))

theorem phase0_pause_of_count {f : FAddr} {d : Dest}
    (h : decode s.latch.ir = .decfsz f d ∨ decode s.latch.ir = .incfsz f d) : s.phase0.pause = s.latch.skip := by
  have hskip : s.latchedRow.skip = .onZero := by obtain h | h := h <;> rw [State.latchedRow, h] <;> rfl
  rw [phase0_pause, hskip]
  rfl

/-- Both bit tests look at the bit of the right-operand latch that their word names. -/
theorem phase0_pause_of_bit_test {f : FAddr} {b : BitIdx} {value : Bool}
    (h : decode s.latch.ir = bif value then .btfss f b else .btfsc f b) :
    s.phase0.pause = (s.bitTestSkip && s.latch.rhs.getLsbD b.toNat == value) := by
  have hop := decode_operandsFrom s.latch.ir
  have hskip : s.latchedRow.skip = .onBit value := by rw [State.latchedRow, h]; cases value <;> rfl
  have hbit : b = fieldB s.latch.ir := by
    rw [h] at hop
    cases value <;> exact hop.2
  rw [phase0_pause, hskip, hbit]
  rfl

end Pause

/-- Settles O54: a clause per field of the commit, each by the rule of phase 0 for that field; the store is there
exactly when the destination of the instruction in `IR` is F (`storesTo_latched`). -/
theorem phaseZeroCommitsAndFetches : Obligations.PhaseZeroCommitsAndFetches := by
  intro s h
  rw [clock_of_phase0 h]
  refine ⟨rfl, phase0_pc s, phase0_w s, phase0_z s, phase0_c s, fun _ _ => phase0_pause_of_count, fun f b hi => ?_,
    fun f b hi => ?_, phase0_pause_of_no_skip, ?_⟩
  · rw [phase0_pause_of_bit_test (value := false) hi, beq_false]
  · rw [phase0_pause_of_bit_test (value := true) hi, beq_true]
  · by_cases hdest : s.latchedDest = some .f
    · rw [storesTo_latched, if_pos hdest]
      exact ⟨rfl, (phase0_periphWrite s).trans (decide_eq_true hdest), (phase0_periphAddr s).trans (if_pos hdest),
        (phase0_writeData s).trans (if_pos hdest), (phase0_bus s).trans (if_pos hdest)⟩
    · rw [storesTo_latched, if_neg hdest]
      exact ⟨(phase0_periphWrite s).trans (decide_eq_false hdest), (phase0_bus s).trans (if_neg hdest)⟩

/-! ### Phase 1 -/

theorem phase1_ir : s.phase1.latch.ir = s.windowWord := rfl

theorem phase2_c : s.phase2.c = s.c := State.follow_c s s.latchedRow.flow (fieldA s.latch.ir)

theorem phase3_c : s.phase3.c = s.c := State.readIf_c s s.latch.periphRead s.latch.periphAddr

/-- Settles O55: phase 1 latches the window's word, and neither the flow of phase 2 nor the read of phase 3 touches
C. -/
theorem phaseOneLatchesInstruction : Obligations.PhaseOneLatchesInstruction := by
  refine ⟨fun s h => ?_, fun s h => ?_⟩
  · rw [clock_of_phase1 h]
    refine ⟨fun hpause => ⟨?_, rfl⟩, fun hpause => ⟨?_, ?_⟩, rfl, rfl⟩
    · rw [phase1_ir, windowWord_of_paused hpause]
    · rw [phase1_ir, windowWord_of_not_paused hpause, State.fetchWord]
    · exact if_neg (Bool.eq_false_iff.mp hpause)
  · obtain h | h := h
    · rw [clock_of_phase2 h, phase2_c]
    · rw [clock_of_phase3 h, phase3_c]

/-! ### Phase 2 -/

theorem phase2_periphRead : s.phase2.latch.periphRead = (readsFrom (decode s.latch.ir)).isSome :=
  classify_readsF (decode s.latch.ir)

theorem phase2_pc : s.phase2.pc = nextPc (decode s.latch.ir) s :=
  follow_classify_pc (decode_operandsFrom s.latch.ir) s

/-- The 12 bits of the PC keep bit 3 of PCLATH and drop bit 4 (R141, D3). -/
theorem target_eq_truncated (a : Target) :
    BitVec.ofBool (s.pclath.getLsbD 3) ++ a = (s.pclath.extractLsb' 3 2 ++ a).setWidth 12 := by
  ext i hi
  simp only [← BitVec.getLsbD_eq_getElem, BitVec.getLsbD_append, BitVec.getLsbD_setWidth, hi, decide_true,
    Bool.true_and]
  by_cases hlow : i < 11
  · simp only [hlow, if_true]
  · obtain rfl : i = 11 := by omega
    simp

theorem phase2_pc_of_jump {s : State} {a : Target}
    (h : decode s.latch.ir = .call a ∨ decode s.latch.ir = .goto a) :
    s.phase2.pc = (s.pclath.extractLsb' 3 2 ++ s.latch.ir.extractLsb' 0 11).setWidth 12 := by
  have hop := decode_operandsFrom s.latch.ir
  rw [phase2_pc]
  obtain h | h := h
  all_goals
    rw [h] at hop ⊢
    obtain rfl := hop
    exact target_eq_truncated s (fieldA s.latch.ir)

theorem phase2_stack : s.phase2.stack = (s.follow s.latchedRow.flow (fieldA s.latch.ir)).stack := rfl

theorem phase2_count : s.phase2.count = (s.follow s.latchedRow.flow (fieldA s.latch.ir)).count := rfl

/-- Settles O56: the PC goes where the flow of the instruction in `IR` takes it (`phase2_pc`), and each of the four
flows has one use of the stack. -/
theorem phaseTwoMovesPcAndStack : Obligations.PhaseTwoMovesPcAndStack := by
  intro s h
  rw [clock_of_phase2 h]
  refine ⟨phase2_periphRead s, phase2_pc s, fun _ => phase2_pc_of_jump, ?_⟩
  have huse : stackUse (decode s.latch.ir) = s.latchedRow.flow.stackUse := stackUse_eq_flow (decode s.latch.ir)
  rw [huse, phase2_push, phase2_pop, phase2_count, phase2_stack]
  cases s.latchedRow.flow with
  | call | ret => exact ⟨rfl, rfl, rfl⟩
  | next | goto => exact ⟨rfl, rfl, rfl, rfl⟩

/-! ### Phase 3 -/

theorem phase3_bus : s.phase3.bus = (s.readIf s.latch.periphRead s.latch.periphAddr).bus := rfl

theorem phase3_rhs_of_read {s : State} (hread : s.latch.periphRead = true) (hreads : s.latchedRow.readsF = true) :
    s.phase3.latch.rhs = s.fileByte s.latch.periphAddr := by
  have hdata : (if s.latch.periphRead then some (s.fileByte s.latch.periphAddr) else none) =
      some (s.fileByte s.latch.periphAddr) := if_pos hread
  calc
    s.phase3.latch.rhs = s.latchedRow.rhs _ (fieldK s.latch.ir) := rfl
    _ = _ := if_pos hreads
    _ = s.fileByte s.latch.periphAddr := by rw [hdata, Option.getD_some]

/-- Settles O57: the read strobe decides whether phase 3 makes the read event (`phase3_bus`), and a row that reads takes
the byte as its right operand. -/
theorem phaseThreeCapturesReadData : Obligations.PhaseThreeCapturesReadData := by
  intro s h
  rw [clock_of_phase3 h]
  refine ⟨rfl, rfl, fun hread => ⟨?_, fun hreads => ?_⟩, fun hread => ?_⟩
  · rw [phase3_bus, hread]
    rfl
  · exact phase3_rhs_of_read hread ((classify_readsF (decode s.latch.ir)).trans hreads)
  · rw [phase3_bus, hread]
    rfl

end Sys2Proof.Machine

end
